-- ==== Sys2Proof/Word.lean ====
section
/-! DEFINITION. The word types of the block: 32-bit registers (10_state.md R21), bytes of the data memory
(20_memory.md R61) and the 16-bit values of the PIX registers (10_state.md R44). -/

namespace Sys2Proof

/-- A 32-bit register value or command word (`REG_W` = 32, 00_scope.md R6). -/
abbrev Word := BitVec 32

/-- A byte of the data memory. -/
abbrev Byte := BitVec 8

/-- A 16-bit value: what PIX_B, PIX_G, PIX_R and PIX_A store (10_state.md R24, R44). -/
abbrev Half := BitVec 16

end Sys2Proof
end

