-- ==== Sys2Proof/Machine/Float64.lean ====
section
/-! DEFINITION. IEEE 754 binary64 arithmetic on finite values (00_scope.md R9): each operation is the exact result rounded
to nearest, ties to even. A value is held as the rational it stands for. DEDUCED: no NaN or infinity arises (R9), and the
sign of a zero is never seen, so neither is represented; log 12. -/

namespace Sys2Proof.Machine

/-- A finite binary64 value, as a rational number. The operations below answer values that binary64 represents. -/
abbrev F64 := Rat

/-- 2 to an integer power. -/
def pow2 (e : Int) : Rat :=
  if 0 ≤ e then ((2 ^ e.toNat : Nat) : Rat) else 1 / ((2 ^ (-e).toNat : Nat) : Rat)

/-- The magnitude of a rational. -/
def magnitude (q : Rat) : Rat := if q < 0 then -q else q

/-- The integer nearest to a rational, the even one of two equally near (00_scope.md R9). -/
def nearestEven (q : Rat) : Int :=
  let below := q.floor
  let rest := q - (below : Rat)
  if rest < 1 / 2 then below
  else if 1 / 2 < rest then below + 1
  else if below % 2 = 0 then below else below + 1

/-- The exponent e with 2^e ≤ |q| < 2^(e+1), for q not zero. -/
def binade (q : Rat) : Int :=
  let e : Int := (q.num.natAbs.log2 : Int) - (q.den.log2 : Int)
  if pow2 e ≤ magnitude q then e else e - 1

/-- The spacing of binary64 values at q: 53 significant bits, and no finer than the subnormals' 2^-1074. -/
def ulp64 (q : Rat) : Rat := pow2 (max (binade q - 52) (-1074))

/-- Round to binary64, to nearest, ties to even (00_scope.md R9). -/
def round64 (q : Rat) : F64 := if q = 0 then 0 else (nearestEven (q / ulp64 q) : Rat) * ulp64 q

/-- `f64(n)` (00_scope.md R9). -/
def f64 (n : Int) : F64 := round64 (n : Rat)

/-- A decimal constant `n / d`: the binary64 value nearest to it (00_scope.md R9). -/
def f64Const (n : Int) (d : Nat) : F64 := round64 ((n : Rat) / (d : Rat))

/-- `+.` (00_scope.md R9). -/
def fadd (a b : F64) : F64 := round64 (a + b)

/-- `-.` (00_scope.md R9). -/
def fsub (a b : F64) : F64 := round64 (a - b)

/-- `*.` (00_scope.md R9). -/
def fmul (a b : F64) : F64 := round64 (a * b)

/-- `/.` (00_scope.md R9). The only divisor is a dimension of at least 1 (41_resample.md R160). -/
def fdiv (a b : F64) : F64 := round64 (a / b)

/-- `floor(r)` (00_scope.md R8, R9). -/
def ffloor (q : F64) : Int := q.floor

/-- `trunc(r)`: the integer part, toward zero (00_scope.md R8, R9). -/
def ftrunc (q : F64) : Int := if q < 0 then -((-q).floor) else q.floor

/-- `clamp(v, lo, hi)` on binary64 values (00_scope.md R8). -/
def fclamp (v lo hi : F64) : F64 := if v < lo then lo else if hi < v then hi else v

/-- `clamp(v, lo, hi)` on integers (00_scope.md R8). -/
def iclamp (v lo hi : Int) : Int := if v < lo then lo else if hi < v then hi else v

end Sys2Proof.Machine
end

