-- ==== Sys2Proof/Machine/Bits.lean ====
section
/-! DEFINITION. Bit fields, in the notation of 00_scope.md R7. -/

namespace Sys2Proof

/-- `v[hi:lo]`, the bits hi down to lo, both included, as an unsigned number (00_scope.md R7). -/
def bits (v : Word) (hi lo : Nat) : Nat := v.toNat / 2 ^ lo % 2 ^ (hi + 1 - lo)

/-- `v[i]`, one bit (00_scope.md R7). -/
def bit (v : Word) (i : Nat) : Bool := decide (v.toNat / 2 ^ i % 2 = 1)

/-- A flag as a number, for building a word from its fields. -/
def flag (b : Bool) : Nat := if b then 1 else 0

end Sys2Proof
end

