-- ==== Sys2Proof/Config.lean ====
section
/-! DEFINITION. What is fixed for a machine (00_scope.md R6), the shape of the platform's open parameters, and the free
values: constants without a body that stand for what the spec leaves unspecified (spec/93_implementation_defined.md). -/

namespace Sys2Proof

/-- The number of bytes of the data memory, 2^ADDR_W with ADDR_W = 32 (00_scope.md R6, 20_memory.md R61). -/
def Config.memorySize : Nat := 2 ^ 32

/-- The number of bytes of the register block (10_state.md R21). -/
def Config.regBlockSize : Nat := 128

/-- The value of the read-only ID register (00_scope.md R2, 10_state.md R27). -/
def Config.idValue : Word := 0x42530007

/-- `KSIZE_MIN` (00_scope.md R6). -/
def Config.ksizeMin : Nat := 3

/-- `KSIZE_MAX` (00_scope.md R6). -/
def Config.ksizeMax : Nat := 99

/-- The kind of an engine access (20_memory.md R61). -/
inductive AccessKind where
  | read
  | write
  deriving DecidableEq, Repr

/-- A range of byte addresses, first and last included, for which the platform refuses reads, writes or both. -/
structure Window where
  first : Nat
  last : Nat
  refusesRead : Bool
  refusesWrite : Bool
  deriving DecidableEq, Repr

/-- The platform's open parameters that the block can see (00_scope.md R6): where the register block sits in the host's
address space, and `MemOK`, given by the windows it refuses. Every predicate over the 2^32 addresses and the two kinds
is such a list. DESIGN CHOICE (safe): plain data of State that no step changes; log 3. -/
structure Platform where
  regBase : Nat
  refused : List Window
  deriving DecidableEq, Repr

/-- A byte that the spec leaves unspecified (items I5 to I7): the first argument is the draw, the second the address.
No body, so nothing is known of its value; log 7. -/
opaque Config.freeByte : Nat → Nat → Byte

/-- A 32-bit word from which an unspecified MAX_GRADIENT is taken (20_memory.md R77, R78): the draw; logs 7 and 10. -/
opaque Config.freeWord : Nat → Word

/-- Which of several refused addresses ERR_INFO reports (60_exceptions.md R257, item I8): the draw; log 8. -/
opaque Config.freePick : Nat → Nat

end Sys2Proof
end

