-- ==== Sys2Proof/Syntax.lean ====
section
/-! DEFINITION. The commands of the block, one constructor per row of spec/opcode_table.json (30_encoding.md R91, R92). -/

namespace Sys2Proof

/-- A command. Only CONVOLVE has operands in its word (30_encoding.md R93 to R95); every other operand is a register. -/
inductive Instr where
  /-- NOP (40_pixel_lanes.md R121). -/
  | nop
  /-- CLEAR (40_pixel_lanes.md R122). -/
  | clear
  /-- GET_PIXEL (40_pixel_lanes.md R123). -/
  | getPixel
  /-- SET_PIXEL (40_pixel_lanes.md R124). -/
  | setPixel
  /-- COPY (40_pixel_lanes.md R126). -/
  | copy
  /-- RESAMPLE with ALG = 0 (41_resample.md R161). -/
  | resampleNearest
  /-- RESAMPLE with ALG = 1 (41_resample.md R162). -/
  | resampleBilinear
  /-- RESAMPLE with ALG = 2 (41_resample.md R165). -/
  | resampleBicubic
  /-- CONVOLVE with its immediate KSIZE and its three flags (42_convolution.md R203). -/
  | convolve (ksize : Nat) (dynDiv procAlpha divAuto : Bool)
  /-- DETECT_BLUR (43_edge_detect.md R231). -/
  | detectBlur
  deriving DecidableEq, Repr

end Sys2Proof
end

