-- ==== Sys2Proof/Machine/State.lean ====
section
/-! DEFINITION. The state of the block (10_state.md, 70_reset_and_hazards.md R290), the events of the world outside it,
and the reasons a step can stop. Plain data throughout. -/

namespace Sys2Proof.Machine

/-- The errors that end a command (60_exceptions.md R251). Code 0, NONE, is the absence of one. -/
inductive CmdError where
  | outOfRange
  | unsupportedFormat
  | invalidKernel
  | invalidDivisor
  | sizeMismatch
  | invalidCommand
  | busError
  deriving DecidableEq, Repr

/-- The registers of one buffer descriptor: BASE, SIZE (WIDTH 15:0, HEIGHT 31:16), STRIDE and FMT (10_state.md R40, R41). -/
structure Descriptor where
  base : Word
  size : Word
  stride : Word
  fmt : BitVec 3
  deriving DecidableEq, Repr

/-- CMD and the operand registers: what acceptance latches (10_state.md R38 to R45). PIX_B to PIX_A store 16 bits (R24). -/
structure Operands where
  cmd : Word
  src : Descriptor
  dst : Descriptor
  kernelBase : Word
  divisor : Word
  threshold : Word
  edgeThreshold : Word
  pixXY : Word
  pixB : Half
  pixG : Half
  pixR : Half
  pixA : Half
  deriving DecidableEq, Repr

/-- How the host has broken the obligation of 20_memory.md R77 since the running command was accepted (item I5): it wrote
a byte the command reads; the addresses it wrote among those the command may write. The model's own record; log 11. -/
structure Breach where
  sourceWritten : Bool
  destWritten : List Nat
  deriving DecidableEq, Repr

/-- No breach: the record at acceptance. -/
def Breach.none : Breach := { sourceWritten := false, destWritten := [] }

/-- ENGINE (10_state.md R25). While BUSY it holds L, the latched copy of the registers (R45). -/
inductive Engine where
  | idle
  | busy (latched : Operands) (breach : Breach)
  deriving DecidableEq, Repr

/-- The data memory (20_memory.md R61): (address, byte) pairs, addresses strictly rising, none equal to what an unlisted
address reads as (Memory.wf). -/
abbrev Memory := List Host.Cell

/-- An event of the world outside the engine, in the order the slave port and the memory serialise them (60_exceptions.md R270).
Register addresses are host addresses: REG_BASE plus an offset. -/
inductive Input where
  /-- A read of `bytes` bytes on the slave port (10_state.md R22). -/
  | regRead (addr bytes : Nat)
  /-- A write of `bytes` bytes on the slave port (10_state.md R22). -/
  | regWrite (addr bytes : Nat) (data : Word)
  /-- `poll`: a repeated 32-bit read until the value under the mask is as given (30_encoding.md R103). -/
  | poll (addr : Nat) (mask value : Word)
  /-- The host reads a byte of the data memory. -/
  | memRead (addr : Nat)
  /-- The host writes a byte of the data memory. -/
  | memWrite (addr : Nat) (data : Byte)
  /-- The hardware reset input is asserted (70_reset_and_hazards.md R290, R293). -/
  | resetAssert
  /-- The hardware reset input is released. -/
  | resetRelease
  /-- The engine takes its turn before the next host event: this is how long a command lasts (item I10; log 5). -/
  | engineTurn
  deriving DecidableEq, Repr

/-- What a read returns to the host. -/
inductive Output where
  | word (v : Word)
  | byte (v : Byte)
  deriving DecidableEq, Repr

/-- Why the machine stops with a fault. -/
inductive Fault where
  /-- Raised by a host access to the data memory at an address of 2^32 or more, which does not exist (20_memory.md R61).
  Safe: nothing is claimed of such an access. -/
  | noSuchMemoryAddress
  deriving DecidableEq, Repr

/-- Why the machine gives no meaning. -/
inductive Refusal where
  /-- Raised by the dispatch for a command that has no meaning in the model. No arm raises it. Safe. -/
  | notModelled (mnemonic : String)
  /-- Raised by a register access that is narrower than 32 bits, misaligned or outside the block (10_state.md R22, item I3:
  "refuse"). Safe. -/
  | undefinedRegisterAccess
  /-- Raised by a register access while the hardware reset input is asserted (70_reset_and_hazards.md R293, item I11:
  "refuse"). Safe. -/
  | accessDuringReset
  deriving DecidableEq, Repr

/-- The machine's state: every register of 10_state.md R21, ENGINE with L, the data memory, the reset input, the platform's
open parameters, and the model's own `draws`, `inputs` and `outputs`. ID is constant and STATUS.BUSY and `irq` are views. -/
structure State where
  /-- CMD, SRC_*, DST_*, KERNEL_BASE, DIVISOR, THRESHOLD, EDGE_THRESHOLD, PIX_*. -/
  operands : Operands
  /-- CTRL.IRQ_EN (R28, R31). -/
  irqEn : Bool
  /-- STATUS.DONE (R34). -/
  done : Bool
  /-- STATUS.ERR (R35). -/
  err : Bool
  /-- STATUS.OVR (R36). -/
  ovr : Bool
  /-- STATUS.ERR_CODE (R37); none is code 0. -/
  errCode : Option CmdError
  /-- ERR_INFO (R39). -/
  errInfo : Word
  /-- BLUR_RESULT.VALID (R48). -/
  blurValid : Bool
  /-- BLUR_RESULT.IS_BLURRED (R48). -/
  isBlurred : Bool
  /-- MAX_GRADIENT (R48). -/
  maxGradient : Word
  /-- ENGINE and, while BUSY, the latched copy L (R25, R45). -/
  engine : Engine
  /-- The hardware reset input is asserted (70_reset_and_hazards.md R293). -/
  resetAsserted : Bool
  /-- The data memory (20_memory.md R61). -/
  mem : Memory
  /-- The platform's open parameters (00_scope.md R6); no step changes them. -/
  platform : Platform
  /-- The model's own: how many times free values were drawn (log 7). -/
  draws : Nat
  /-- The model's own: the events still to come, oldest first (log 5). -/
  inputs : List Input
  /-- The model's own: what reads have returned, oldest first (log 5). -/
  outputs : List Output
  deriving DecidableEq, Repr

/-- A descriptor after reset (70_reset_and_hazards.md R290). -/
def Descriptor.reset : Descriptor := { base := 0, size := 0, stride := 0, fmt := 0 }

/-- CMD and the operand registers after reset: 0 each, CMD the NOP encoding (70_reset_and_hazards.md R290). -/
def Operands.reset : Operands :=
  { cmd := 0, src := Descriptor.reset, dst := Descriptor.reset, kernelBase := 0, divisor := 0, threshold := 0,
    edgeThreshold := 0, pixXY := 0, pixB := 0, pixG := 0, pixR := 0, pixA := 0 }

/-- The machine right after reset (70_reset_and_hazards.md R290). The memory's content, the platform and the model's own
fields are named in logs 2, 3 and 17. -/
def State.reset : State :=
  { operands := Operands.reset, irqEn := false, done := false, err := false, ovr := false, errCode := none,
    errInfo := 0, blurValid := false, isBlurred := false, maxGradient := 0, engine := .idle, resetAsserted := false,
    mem := [], platform := { regBase := 0, refused := [] }, draws := 0, inputs := [], outputs := [] }

end Sys2Proof.Machine
end

