-- ==== Sys2Proof/Machine/Flags.lean ====
section
/-! DEFINITION. The block's flags (10_state.md R50: there is no condition code) as the registers show them, the interrupt
output, and the error codes. -/

namespace Sys2Proof.Machine

/-- The numeric code of an error (60_exceptions.md R251). -/
def CmdError.code : CmdError → Nat
  | .outOfRange => 1
  | .unsupportedFormat => 2
  | .invalidKernel => 3
  | .invalidDivisor => 4
  | .sizeMismatch => 5
  | .invalidCommand => 6
  | .busError => 7

/-- STATUS.ERR_CODE as a number: 0 where no error is pending (60_exceptions.md R251). -/
def errCodeValue : Option CmdError → Nat
  | none => 0
  | some e => e.code

/-- STATUS.BUSY reads 1 exactly when ENGINE = BUSY (10_state.md R33). -/
def State.busy (s : State) : Bool :=
  match s.engine with
  | .idle => false
  | .busy _ _ => true

/-- STATUS as a read sees it (10_state.md R32). -/
def State.statusWord (s : State) : Word :=
  BitVec.ofNat 32
    (flag s.busy + flag s.done * 2 + flag s.err * 4 + flag s.ovr * 8 + errCodeValue s.errCode * 256)

/-- CTRL as a read sees it: START and SOFT_RESET read 0 (10_state.md R28). -/
def State.ctrlWord (s : State) : Word := BitVec.ofNat 32 (flag s.irqEn * 4)

/-- BLUR_RESULT as a read sees it (10_state.md R48). -/
def State.blurWord (s : State) : Word := BitVec.ofNat 32 (flag s.isBlurred + flag s.blurValid * 2)

/-- The interrupt output, a level (10_state.md R53). -/
def State.irq (s : State) : Bool := s.irqEn && s.done

/-- The sense of DETECT_BLUR's answer: sharp when the maximum gradient reaches the threshold (43_edge_detect.md R231). -/
def isBlurredFlag (maxGradient : Nat) (edgeThreshold : Word) : Bool := !decide (edgeThreshold.toNat ≤ maxGradient)

end Sys2Proof.Machine
end

