-- ==== Sys2Proof/Machine/Memory.lean ====
section
/-! DEFINITION. The data memory's operations (20_memory.md R61, R62, R73; 00_scope.md R10) and the platform's admission of
engine accesses (20_memory.md R61). -/

namespace Sys2Proof.Machine

/-- What an unlisted address reads as. The content at power-on is the platform's (70_reset_and_hazards.md R291, item I9):
any content is some list; reading 0 where nothing is listed only fixes how it is written down. DESIGN CHOICE (unsafe for
State.reset alone); log 2. -/
def Memory.blank : Byte := 0

/-- The byte at an address. -/
def Memory.read : Memory → Nat → Byte
  | [], _ => Memory.blank
  | (b, v) :: rest, a => if a = b then v else Memory.read rest a

/-- Put a byte at the head, unless it is what an unlisted address reads as. -/
def Memory.cons (a : Nat) (v : Byte) (rest : Memory) : Memory :=
  if v = Memory.blank then rest else (a, v) :: rest

/-- Write one byte, keeping the canonical form. -/
def Memory.write : Memory → Nat → Byte → Memory
  | [], a, v => Memory.cons a v []
  | (b, w) :: rest, a, v =>
      if a < b then Memory.cons a v ((b, w) :: rest)
      else if a = b then Memory.cons a v rest
      else (b, w) :: Memory.write rest a v

/-- `MemRead(addr, n)`: the n bytes from addr on as an unsigned little-endian number (00_scope.md R10, 20_memory.md R62). -/
def Memory.readLE (m : Memory) (a : Nat) : Nat → Nat
  | 0 => 0
  | n + 1 => (m.read a).toNat + 256 * Memory.readLE m (a + 1) n

/-- Byte k of a value, least significant first (20_memory.md R62). -/
def byteOf (v k : Nat) : Byte := BitVec.ofNat 8 (v / 256 ^ k)

/-- Write a list of (address, byte) pairs, in its order. -/
def Memory.writeAll : Memory → List Host.Cell → Memory
  | m, [] => m
  | m, (a, v) :: rest => Memory.writeAll (m.write a v) rest

/-- Each listed address holds an unspecified byte: the free value of draw `n` at that address (log 7). -/
def Memory.scramble (m : Memory) (n : Nat) (addrs : List Nat) : Memory :=
  m.writeAll (addrs.map fun a => (a, Config.freeByte n a))

/-- The canonical form: addresses strictly rising, no entry equal to what an unlisted address reads as. -/
def Memory.wf (m : Memory) : Bool :=
  decide (m.Pairwise fun c d => c.1 < d.1) && m.all fun c => decide (c.2 ≠ Memory.blank)

/-- Every listed address exists (20_memory.md R61). -/
def Memory.inSpace (m : Memory) : Bool := m.all fun c => decide (c.1 < Config.memorySize)

/-- A window refuses an access to an address. -/
def windowRefuses (w : Window) (k : AccessKind) (a : Nat) : Bool :=
  decide (w.first ≤ a ∧ a ≤ w.last) &&
    match k with
    | .read => w.refusesRead
    | .write => w.refusesWrite

/-- `MemOK(addr, kind)` (20_memory.md R61). -/
def memOK (p : Platform) (k : AccessKind) (a : Nat) : Bool := !(p.refused.any fun w => windowRefuses w k a)

/-- The addresses among those given that the platform refuses. -/
def refusedAmong (p : Platform) (k : AccessKind) (addrs : List Nat) : List Nat := addrs.filter fun a => !memOK p k a

end Sys2Proof.Machine
end

