-- ==== Sys2Proof/Machine/Operands.lean ====
section
/-! DEFINITION. The operand forms of the commands: pixel formats and lanes (20_memory.md R63 to R65), descriptors and their
checks (R69), pixel addresses (R66), lane and byte accesses (R67, R68). -/

namespace Sys2Proof.Machine

/-- The six pixel formats (20_memory.md R63). -/
inductive Format where
  | gray8
  | gray16
  | rgb24
  | rgb32
  | rgb48
  | argb64
  deriving DecidableEq, Repr

/-- The format of a code; codes 6 and 7 are reserved (20_memory.md R63, 30_encoding.md R100). -/
def Format.ofCode (c : BitVec 3) : Option Format :=
  match c.toNat with
  | 0 => some .gray8
  | 1 => some .gray16
  | 2 => some .rgb24
  | 3 => some .rgb32
  | 4 => some .rgb48
  | 5 => some .argb64
  | _ => none

/-- `bpp(f)`, bytes per pixel (20_memory.md R63, R65). -/
def Format.bpp : Format → Nat
  | .gray8 => 1
  | .gray16 => 2
  | .rgb24 => 3
  | .rgb32 => 4
  | .rgb48 => 6
  | .argb64 => 8

/-- `nlanes(f)` (20_memory.md R65). -/
def Format.nlanes : Format → Nat
  | .gray8 => 1
  | .gray16 => 1
  | .rgb24 => 3
  | .rgb32 => 4
  | .rgb48 => 3
  | .argb64 => 4

/-- `lw(f)/8`: the bytes of a lane (20_memory.md R63, R65). -/
def Format.laneBytes : Format → Nat
  | .gray8 => 1
  | .gray16 => 2
  | .rgb24 => 1
  | .rgb32 => 1
  | .rgb48 => 2
  | .argb64 => 2

/-- `lw(f)`, the lane width in bits (20_memory.md R65). -/
def Format.lw (f : Format) : Nat := 8 * f.laneBytes

/-- `lanemax(f)` (20_memory.md R65). -/
def Format.lanemax (f : Format) : Nat := 2 ^ f.lw - 1

/-- `laneoff(f, l)` (20_memory.md R65). -/
def Format.laneoff (f : Format) (l : Nat) : Nat := l * f.laneBytes

/-- `isalpha(f, l)` (20_memory.md R65). -/
def Format.isAlpha (f : Format) (l : Nat) : Bool := (decide (f = .rgb32) || decide (f = .argb64)) && decide (l = 3)

/-- WIDTH = SIZE[15:0] (10_state.md R40). -/
def Descriptor.width (d : Descriptor) : Nat := bits d.size 15 0

/-- HEIGHT = SIZE[31:16] (10_state.md R40). -/
def Descriptor.height (d : Descriptor) : Nat := bits d.size 31 16

/-- A descriptor that has passed its checks, with its numbers: a buffer (20_memory.md R69). -/
structure Buffer where
  base : Nat
  width : Nat
  height : Nat
  stride : Nat
  fmt : Format
  deriving DecidableEq, Repr

/-- The first address after the buffer's region (20_memory.md R69). -/
def Buffer.limit (b : Buffer) : Nat := b.base + b.stride * b.height

/-- The addresses of the buffer's region, padding included (20_memory.md R69). -/
def Buffer.region (b : Buffer) : List Nat := List.range' b.base (b.stride * b.height)

/-- `CheckFmt(D)` (20_memory.md R69). -/
def checkFmt (d : Descriptor) : Except CmdError Format :=
  match Format.ofCode d.fmt with
  | some f => .ok f
  | none => .error .unsupportedFormat

/-- `CheckShape(D)`, for a descriptor whose format is f (20_memory.md R69). -/
def checkShape (d : Descriptor) (f : Format) : Except CmdError Buffer :=
  let b : Buffer :=
    { base := d.base.toNat, width := d.width, height := d.height, stride := d.stride.toNat, fmt := f }
  if b.width = 0 ∨ b.height = 0 then .error .sizeMismatch
  else if b.stride < b.width * f.bpp then .error .sizeMismatch
  else if Config.memorySize < b.limit then .error .sizeMismatch
  else .ok b

/-- `PixAddr(D, x, y)`, exact over the integers (20_memory.md R66). -/
def Buffer.pixAddr (b : Buffer) (x y : Nat) : Nat := b.base + y * b.stride + x * b.fmt.bpp

/-- The byte address of lane l of a pixel (20_memory.md R67). -/
def Buffer.laneAddr (b : Buffer) (x y l : Nat) : Nat := b.pixAddr x y + b.fmt.laneoff l

/-- The pixel positions of a buffer, row by row (00_scope.md R12). -/
def Buffer.pixels (b : Buffer) : List (Nat × Nat) :=
  (List.range b.height).flatMap fun y => (List.range b.width).map fun x => (x, y)

/-- The addresses of the bytes of one pixel (20_memory.md R76). -/
def Buffer.pixelBytes (b : Buffer) (x y : Nat) : List Nat := List.range' (b.pixAddr x y) b.fmt.bpp

/-- The addresses of the bytes of every pixel, padding left out (20_memory.md R76). -/
def Buffer.allPixelBytes (b : Buffer) : List Nat := b.pixels.flatMap fun p => b.pixelBytes p.1 p.2

/-- `LaneRead(D, x, y, l)` (20_memory.md R67). -/
def Buffer.laneRead (b : Buffer) (m : Memory) (x y l : Nat) : Nat := m.readLE (b.laneAddr x y l) b.fmt.laneBytes

/-- `ByteRead(D, x, y, i)` (20_memory.md R67). -/
def Buffer.byteRead (b : Buffer) (m : Memory) (x y i : Nat) : Byte := m.read (b.pixAddr x y + i)

/-- A byte that a command stores: its address, and its value as a function of the memory the command reads
(20_memory.md R79: the reads see the memory before any of the command's writes). -/
structure Store where
  addr : Nat
  value : Memory → Byte

/-- `LaneWrite(D, x, y, l, v)`: the lane's bytes, least significant first (20_memory.md R62, R68). -/
def Buffer.laneWrite (b : Buffer) (x y l : Nat) (v : Memory → Nat) : List Store :=
  (List.range b.fmt.laneBytes).map fun k => { addr := b.laneAddr x y l + k, value := fun m => byteOf (v m) k }

/-- `ByteWrite(D, x, y, i, v)` (20_memory.md R68). -/
def Buffer.byteWrite (b : Buffer) (x y i : Nat) (v : Memory → Byte) : Store :=
  { addr := b.pixAddr x y + i, value := v }

/-- Two buffers have the same width, height and format (40_pixel_lanes.md R126, 42_convolution.md R202, 43_edge_detect.md R231). -/
def Buffer.sameShape (a b : Buffer) : Bool :=
  decide (a.width = b.width) && decide (a.height = b.height) && decide (a.fmt = b.fmt)

/-- The bytes that lie in both regions (20_memory.md R78). -/
def Buffer.overlap (a b : Buffer) : List Nat :=
  let lo := max a.base b.base
  List.range' lo (min a.limit b.limit - lo)

/-- X = PIX_XY[15:0] (10_state.md R44). -/
def Operands.pixX (o : Operands) : Nat := bits o.pixXY 15 0

/-- Y = PIX_XY[31:16] (10_state.md R44). -/
def Operands.pixY (o : Operands) : Nat := bits o.pixXY 31 16

/-- A check that raises an error when its condition holds (00_scope.md R10). -/
def raiseIf (c : Bool) (e : CmdError) : Except CmdError Unit := if c then .error e else .ok ()

end Sys2Proof.Machine
end

