-- ==== Sys2Proof/Machine/Ops.lean ====
section
/-! DEFINITION. The shared operations of the command lifecycle: acceptance (10_state.md R45), completion (R47), ending with
an error and its acknowledgement (60_exceptions.md R254, R264), reset of the registers (70_reset_and_hazards.md R290), and
the running of a command that has passed its checks. -/

namespace Sys2Proof.Machine

/-- L, the latched copy a running command reads (00_scope.md R11). With no command in progress, where no run executes one,
the copy that acceptance would take (log 15). -/
def State.latched (s : State) : Operands :=
  match s.engine with
  | .idle => s.operands
  | .busy l _ => l

/-- The host's breaches of 20_memory.md R77 since acceptance. -/
def State.breach (s : State) : Breach :=
  match s.engine with
  | .idle => Breach.none
  | .busy _ b => b

/-- `Accept()` (10_state.md R45), with R48's clearing of BLUR_RESULT for a CMD of exactly 0x00000007. The command then runs
at the engine's turn. -/
def State.accept (s : State) : State :=
  { s with
    engine := .busy s.operands Breach.none
    done := false
    err := false
    errCode := none
    errInfo := 0
    blurValid := if s.operands.cmd = 0x00000007 then false else s.blurValid
    isBlurred := if s.operands.cmd = 0x00000007 then false else s.isBlurred }

/-- The end of a command that did not raise (10_state.md R47): IDLE and DONE; ERR is left as it is. -/
def State.complete (s : State) : State := { s with engine := .idle, done := true }

/-- `raise E(info)`: the end of a command by an error (60_exceptions.md R254, R263). -/
def State.raise (s : State) (e : CmdError) (info : Word) : State :=
  { s with errCode := some e, errInfo := info, err := true, done := true, engine := .idle }

/-- A STATUS write (10_state.md R32), the host's acknowledgement of an ended command (60_exceptions.md R264): each W1C bit
written 1 is cleared, and ERR clears ERR_CODE with it. -/
def State.acknowledge (s : State) (v : Word) : State :=
  { s with
    done := s.done && !bit v 1
    err := s.err && !bit v 2
    ovr := s.ovr && !bit v 3
    errCode := if bit v 2 then none else s.errCode }

/-- Every register of 10_state.md R21 at its reset value and ENGINE IDLE (70_reset_and_hazards.md R290). Data memory stays. -/
def State.clearRegisters (s : State) : State :=
  { s with
    operands := Operands.reset, irqEn := false, done := false, err := false, ovr := false, errCode := none
    errInfo := 0, blurValid := false, isBlurred := false, maxGradient := 0, engine := .idle }

/-- The data memory becomes m. -/
def State.withMem (s : State) (m : Memory) : State := { s with mem := m }

/-- Free values have been drawn once more (log 7). -/
def State.nextDraw (s : State) : State := { s with draws := s.draws + 1 }

/-- The bytes at these addresses hold unspecified values (item I7), drawn anew. -/
def State.unspecify (s : State) (addrs : List Nat) : State := (s.withMem (s.mem.scramble s.draws addrs)).nextDraw

/-- A GET_PIXEL result (40_pixel_lanes.md R123). -/
structure Pixel where
  b : Half
  g : Half
  r : Half
  a : Half
  deriving DecidableEq, Repr

/-- GET_PIXEL writes PIX_B to PIX_A (40_pixel_lanes.md R123, 10_state.md R49). -/
def State.writePixel (s : State) (p : Pixel) : State :=
  { s with operands := { s.operands with pixB := p.b, pixG := p.g, pixR := p.r, pixA := p.a } }

/-- DETECT_BLUR writes MAX_GRADIENT and BLUR_RESULT with VALID = 1 (43_edge_detect.md R231). -/
def State.writeBlur (s : State) (maxGradient : Word) (edgeThreshold : Word) : State :=
  { s with maxGradient := maxGradient, blurValid := true, isBlurred := isBlurredFlag maxGradient.toNat edgeThreshold }

/-- The result registers a command writes at its successful end (10_state.md R49), each value a function of the memory the
command reads. -/
inductive Result where
  | none
  | pixel (value : Memory → Pixel)
  | blur (edgeThreshold : Word) (lanemax : Nat) (maxGradient : Memory → Nat)

/-- A command that has passed its operand checks: every byte it reads, with the kernel words apart since they are read first
(42_convolution.md R200); every byte it stores; whether its destination region overlaps its source region or kernel, and
the source bytes in the overlap (20_memory.md R78); its result registers. -/
structure Plan where
  kernelReads : List Nat
  reads : List Nat
  stores : List Store
  overlaps : Bool
  overlapped : List Nat
  result : Result

/-- A plan that touches nothing. -/
def Plan.empty : Plan :=
  { kernelReads := [], reads := [], stores := [], overlaps := false, overlapped := [], result := .none }

/-- The addresses a command stores to. -/
def Plan.writes (p : Plan) : List Nat := p.stores.map Store.addr

/-- The bytes that are left unspecified when the command's effect is (items I6, I7): those it may write
(20_memory.md R76) and the source bytes inside an overlap (R78); logs 9 and 10. -/
def Plan.mayChange (p : Plan) : List Nat := p.writes ++ p.overlapped

/-- The kernel bytes the platform refuses. -/
def State.refusedKernel (s : State) (p : Plan) : List Nat := refusedAmong s.platform .read p.kernelReads

/-- The other bytes of the access set that the platform refuses. -/
def State.refusedPixels (s : State) (p : Plan) : List Nat :=
  refusedAmong s.platform .read p.reads ++ refusedAmong s.platform .write p.writes

/-- Which of `count` refused accesses is reported: the only one, or a draw (60_exceptions.md R257, item I8; log 8). -/
def drawPosition (n count : Nat) : Nat := if count = 1 then 0 else Config.freePick n % count

/-- The end by BUS_ERROR: ERR_INFO is the address of a refused access (60_exceptions.md R257). -/
def State.busError (s : State) (a : Nat) : State := (s.raise .busError (BitVec.ofNat 32 a)).nextDraw

/-- The result registers of a command whose reads saw the memory m. -/
def State.writeResult (s : State) (r : Result) (m : Memory) : State :=
  match r with
  | .none => s
  | .pixel value => s.writePixel (value m)
  | .blur edgeThreshold _ maxGradient => s.writeBlur (BitVec.ofNat 32 (maxGradient m)) edgeThreshold

/-- The result registers of a command whose outputs are unspecified (20_memory.md R77, R78): free values within the limits
the command's rule sets, drawn anew. GET_PIXEL's lanes come from free bytes (40_pixel_lanes.md R123); MAX_GRADIENT is in
[0, lanemax] (43_edge_detect.md R232), and IS_BLURRED is computed from it; logs 10 and 11. -/
def State.writeFreeResult (s : State) (r : Result) (reads : List Nat) : State :=
  match r with
  | .none => s
  | .pixel value => (s.writePixel (value (s.mem.scramble s.draws reads))).nextDraw
  | .blur edgeThreshold lanemax _ =>
      (s.writeBlur (BitVec.ofNat 32 ((Config.freeWord s.draws).toNat % (lanemax + 1))) edgeThreshold).nextDraw

/-- The (address, byte) pairs a plan stores when its reads see the memory m. -/
def Plan.cells (p : Plan) (m : Memory) : List Host.Cell := p.stores.map fun c => (c.addr, c.value m)

/-- The destination bytes the host wrote while the command ran hold unspecified values (item I5). -/
def State.spoilWritten (s : State) (addrs : List Nat) : State :=
  match addrs with
  | [] => s
  | _ :: _ => s.unspecify addrs

/-- The effect of a command none of whose accesses is refused. Where the host wrote a byte the command reads (item I5) or the
destination overlaps the source or the kernel (item I6), every output is unspecified. Otherwise the reads see the memory
before any write, every output byte has the value of the command's rule (20_memory.md R79), but for the destination bytes
the host wrote meanwhile. -/
def State.applyPlan (s : State) (p : Plan) : State :=
  if p.overlaps || s.breach.sourceWritten then
    ((s.unspecify p.mayChange).writeFreeResult p.result p.reads).complete
  else
    (((s.withMem (s.mem.writeAll (p.cells s.mem))).spoilWritten s.breach.destWritten).writeResult p.result s.mem).complete

/-- Run a command that has passed its checks. Where accesses are refused, one of them is reported. A kernel word leaves data
memory as it is (60_exceptions.md R255, C17). It does so even where the host wrote a source or kernel byte meanwhile, and even
where the destination overlaps the source or the kernel, although 70_reset_and_hazards.md R299 and 20_memory.md R78 leave the
destination open there: DESIGN CHOICE (unsafe); logs 19 and 21. Any other access leaves every byte the command may write
unspecified (R255, R257; logs 8 and 9). -/
def State.runPlan (s : State) (p : Plan) : State :=
  match s.refusedKernel p ++ s.refusedPixels p with
  | [] => s.applyPlan p
  | a :: others =>
    let n := drawPosition s.draws (a :: others).length
    let reported := (a :: others).getD n a
    if n < (s.refusedKernel p).length then s.busError reported else (s.unspecify p.mayChange).busError reported

/-- Run a command whose operand checks gave an error or a plan. An operand-check error touches no memory and has
ERR_INFO 0 (60_exceptions.md R255). -/
def State.runCommand (s : State) (r : Except CmdError Plan) : State :=
  match r with
  | .error e => s.raise e 0
  | .ok p => s.runPlan p

end Sys2Proof.Machine
end

