-- ==== Sys2Proof/Machine/PixelLanes.lean ====
section
/-! DEFINITION. The pixel-lane commands NOP, CLEAR, GET_PIXEL, SET_PIXEL and COPY (40_pixel_lanes.md R120 to R126). -/

namespace Sys2Proof.Machine

/-- NOP accesses nothing (40_pixel_lanes.md R121). -/
def nopPlan (_ : Operands) : Except CmdError Plan := .ok Plan.empty

/-- The meaning of NOP (40_pixel_lanes.md R121). -/
def execNop (s : State) : Host.Outcome State Fault Refusal := .next (s.runCommand (nopPlan s.latched))

/-- CLEAR stores 0 to every byte of the destination region, padding included (40_pixel_lanes.md R122). -/
def clearPlan (l : Operands) : Except CmdError Plan := do
  let f ← checkFmt l.dst
  let d ← checkShape l.dst f
  return { Plan.empty with stores := d.region.map fun a => { addr := a, value := fun _ => 0 } }

/-- The meaning of CLEAR (40_pixel_lanes.md R122). -/
def execClear (s : State) : Host.Outcome State Fault Refusal := .next (s.runCommand (clearPlan s.latched))

/-- The pixel's lanes as GET_PIXEL reports them: a gray intensity in B, G and R; A is 0 where the format has no alpha lane
(40_pixel_lanes.md R123). -/
def readPixel (b : Buffer) (x y : Nat) (m : Memory) : Pixel :=
  let lane (l : Nat) : Half := BitVec.ofNat 16 (b.laneRead m x y l)
  match b.fmt with
  | .gray8 | .gray16 => { b := lane 0, g := lane 0, r := lane 0, a := 0 }
  | .rgb24 | .rgb48 => { b := lane 0, g := lane 1, r := lane 2, a := 0 }
  | .rgb32 | .argb64 => { b := lane 0, g := lane 1, r := lane 2, a := lane 3 }

/-- The checks of GET_PIXEL and SET_PIXEL, in their order: format, shape, coordinates (40_pixel_lanes.md R123, R124). -/
def checkPixel (l : Operands) (d : Descriptor) : Except CmdError Buffer := do
  let f ← checkFmt d
  let b ← checkShape d f
  raiseIf (decide (b.width ≤ l.pixX) || decide (b.height ≤ l.pixY)) .outOfRange
  return b

/-- GET_PIXEL reads the bytes of one pixel of SRC (40_pixel_lanes.md R123). -/
def getPixelPlan (l : Operands) : Except CmdError Plan := do
  let b ← checkPixel l l.src
  return { Plan.empty with
    reads := b.pixelBytes l.pixX l.pixY
    result := .pixel (readPixel b l.pixX l.pixY) }

/-- The meaning of GET_PIXEL (40_pixel_lanes.md R123). -/
def execGetPixel (s : State) : Host.Outcome State Fault Refusal := .next (s.runCommand (getPixelPlan s.latched))

/-- `Luma(r, g, b, m)`, in binary64 in the order R125 gives, truncated and clamped (40_pixel_lanes.md R125). -/
def luma (r g b max : Nat) : Nat :=
  let y :=
    fadd (fadd (fmul (f64 r) (f64Const 2125 10000)) (fmul (f64 g) (f64Const 7154 10000)))
      (fmul (f64 b) (f64Const 721 10000))
  (iclamp (ftrunc y) 0 max).toNat

/-- The lanes SET_PIXEL writes: an 8-bit format takes bits 7:0 of each PIX register, a 16-bit format bits 15:0; a gray format
takes the luma (40_pixel_lanes.md R124). -/
def pixelLanes (l : Operands) (f : Format) : List Nat :=
  let part (v : Half) : Nat := v.toNat % 2 ^ f.lw
  match f with
  | .gray8 | .gray16 => [luma (part l.pixR) (part l.pixG) (part l.pixB) f.lanemax]
  | .rgb24 | .rgb48 => [part l.pixB, part l.pixG, part l.pixR]
  | .rgb32 | .argb64 => [part l.pixB, part l.pixG, part l.pixR, part l.pixA]

/-- SET_PIXEL writes the lanes of one pixel of DST (40_pixel_lanes.md R124). -/
def setPixelPlan (l : Operands) : Except CmdError Plan := do
  let b ← checkPixel l l.dst
  let lanes := pixelLanes l b.fmt
  return { Plan.empty with
    stores := (List.range b.fmt.nlanes).flatMap fun k => b.laneWrite l.pixX l.pixY k fun _ => lanes.getD k 0 }

/-- The meaning of SET_PIXEL (40_pixel_lanes.md R124). -/
def execSetPixel (s : State) : Host.Outcome State Fault Refusal := .next (s.runCommand (setPixelPlan s.latched))

/-- The checks of both descriptors in the order the two-buffer commands make them: SRC's format, DST's format, SRC's shape,
DST's shape (20_memory.md R69, 60_exceptions.md R262), with `between` standing between formats and shapes. -/
def checkBoth (l : Operands) (between : Format → Except CmdError Unit) : Except CmdError (Buffer × Buffer) := do
  let fs ← checkFmt l.src
  let fd ← checkFmt l.dst
  between fs
  let s ← checkShape l.src fs
  let d ← checkShape l.dst fd
  return (s, d)

/-- COPY copies the first min(strides) bytes of every row, padding included (40_pixel_lanes.md R126). -/
def copyPlan (l : Operands) : Except CmdError Plan := do
  let (s, d) ← checkBoth l fun _ => .ok ()
  raiseIf (!s.sameShape d) .sizeMismatch
  let n := min s.stride d.stride
  let cells := (List.range s.height).flatMap fun y => (List.range n).map fun i => (y, i)
  return { Plan.empty with
    reads := cells.map fun c => s.base + c.1 * s.stride + c.2
    stores := cells.map fun c =>
      { addr := d.base + c.1 * d.stride + c.2, value := fun m => m.read (s.base + c.1 * s.stride + c.2) }
    overlaps := !(s.overlap d).isEmpty
    overlapped := s.overlap d }

/-- The meaning of COPY (40_pixel_lanes.md R126). -/
def execCopy (s : State) : Host.Outcome State Fault Refusal := .next (s.runCommand (copyPlan s.latched))

end Sys2Proof.Machine
end

