-- ==== Sys2Proof/Machine/Convolution.lean ====
section
/-! DEFINITION. The convolution command CONVOLVE (42_convolution.md R200 to R207), in exact integers, and the loop body it
shares with DETECT_BLUR (43_edge_detect.md R231). -/

namespace Sys2Proof.Machine

/-- The parameters of a convolution: side length, weights `wt i j`, configured divisor, threshold and the two flags. -/
structure Kernel where
  size : Nat
  weight : Nat → Nat → Int
  divisor : Int
  threshold : Int
  dynDiv : Bool
  procAlpha : Bool

/-- The cells of a kernel, row by row (42_convolution.md R203). -/
def kernelCells (size : Nat) : List (Nat × Nat) :=
  (List.range size).flatMap fun i => (List.range size).map fun j => (i, j)

/-- The source position of kernel cell (i, j) for output (x, y), where it lies in the image (42_convolution.md R203). -/
def windowCell (s : Buffer) (size x y i j : Nat) : Option (Nat × Nat) :=
  let r := size / 2
  if x + j < r ∨ s.width ≤ x + j - r ∨ y + i < r ∨ s.height ≤ y + i - r then none
  else some (x + j - r, y + i - r)

/-- The running totals of one window: the weighted sum, the sum of in-bounds weights, and whether a cell was outside. -/
structure WindowSum where
  sum : Int
  wsum : Int
  clipped : Bool
  deriving DecidableEq, Repr

/-- The totals over some cells of the window of output (x, y) on lane l; cells outside the image are skipped
(42_convolution.md R203, R204). -/
def windowTotals (s : Buffer) (k : Kernel) (m : Memory) (x y l : Nat) (cells : List (Nat × Nat)) : WindowSum :=
  cells.foldl
    (fun t c =>
      match windowCell s k.size x y c.1 c.2 with
      | none => { t with clipped := true }
      | some p =>
          { t with
            sum := t.sum + k.weight c.1 c.2 * (s.laneRead m p.1 p.2 l : Int)
            wsum := t.wsum + k.weight c.1 c.2 })
    { sum := 0, wsum := 0, clipped := false }

/-- The totals of the whole window (42_convolution.md R203). -/
def windowSum (s : Buffer) (k : Kernel) (m : Memory) (x y l : Nat) : WindowSum :=
  windowTotals s k m x y l (kernelCells k.size)

/-- The divisor of a window: the in-bounds weights where it is clipped and DYN_DIV is set, else the configured one
(42_convolution.md R204). -/
def windowDivisor (k : Kernel) (t : WindowSum) : Int := if t.clipped && k.dynDiv then t.wsum else k.divisor

/-- A sum divided toward zero; a zero divisor is skipped (00_scope.md R8, 42_convolution.md R203, R204). -/
def normalise (sum dv : Int) : Int := if dv = 0 then sum else Int.tdiv sum dv

/-- The lane the convolution writes (42_convolution.md R203); alpha is copied through unless PROC_ALPHA is set. -/
def convolveLane (s : Buffer) (k : Kernel) (m : Memory) (x y l : Nat) : Nat :=
  if s.fmt.isAlpha l && !k.procAlpha then s.laneRead m x y l
  else
    let t := windowSum s k m x y l
    (iclamp (normalise t.sum (windowDivisor k t) + k.threshold) 0 s.fmt.lanemax).toNat

/-- The loop body of CONVOLVE and DETECT_BLUR over every lane of every pixel (42_convolution.md R203). The reads are every
pixel byte of the source: each output's window holds its own pixel. -/
def convolvePlan (s d : Buffer) (k : Memory → Kernel) : Plan :=
  { Plan.empty with
    reads := s.allPixelBytes
    stores := s.pixels.flatMap fun p => (List.range s.fmt.nlanes).flatMap fun l =>
      d.laneWrite p.1 p.2 l fun m => convolveLane s (k m) m p.1 p.2 l
    overlaps := !(s.overlap d).isEmpty
    overlapped := s.overlap d }

/-- `Wt(i, j)`: a signed 32-bit little-endian word, row-major from KERNEL_BASE (42_convolution.md R200). -/
def kernelWeight (base size : Nat) (m : Memory) (i j : Nat) : Int :=
  (BitVec.ofNat 32 (m.readLE (base + 4 * (i * size + j)) 4)).toInt

/-- `tot`, the sum of the weights (42_convolution.md R201). -/
def weightTotal (size : Nat) (weight : Nat → Nat → Int) : Int :=
  (kernelCells size).foldl (fun t c => t + weight c.1 c.2) 0

/-- `cdiv`: the default divisor, or the DIVISOR register (42_convolution.md R201). -/
def configuredDivisor (size : Nat) (weight : Nat → Nat → Int) (divAuto : Bool) (divisor : Word) : Int :=
  if divAuto then
    let tot := weightTotal size weight
    if tot = 0 then 1 else tot
  else divisor.toInt

/-- The kernel a CONVOLVE reads from memory (42_convolution.md R200, R201). -/
def memoryKernel (l : Operands) (ksize : Nat) (dynDiv procAlpha divAuto : Bool) (m : Memory) : Kernel :=
  let weight := kernelWeight l.kernelBase.toNat ksize m
  { size := ksize, weight := weight, divisor := configuredDivisor ksize weight divAuto l.divisor,
    threshold := l.threshold.toInt, dynDiv := dynDiv, procAlpha := procAlpha }

/-- The addresses of the kernel's words (42_convolution.md R200). -/
def kernelBytes (l : Operands) (ksize : Nat) : List Nat := List.range' l.kernelBase.toNat (4 * (ksize * ksize))

/-- The kernel's words and a region have a byte in common (20_memory.md R78). -/
def kernelOverlaps (l : Operands) (ksize : Nat) (d : Buffer) : Bool :=
  decide (max l.kernelBase.toNat d.base < min (l.kernelBase.toNat + 4 * (ksize * ksize)) d.limit)

/-- The checks of CONVOLVE that stand between the formats and the shapes: the side length, the kernel's extent, an explicit
zero divisor (42_convolution.md R202). -/
def checkKernel (l : Operands) (ksize : Nat) (divAuto : Bool) : Except CmdError Unit := do
  raiseIf (decide (ksize % 2 = 0) || decide (ksize < Config.ksizeMin) || decide (Config.ksizeMax < ksize)) .invalidKernel
  raiseIf (decide (Config.memorySize < l.kernelBase.toNat + 4 * ksize * ksize)) .invalidKernel
  raiseIf (!divAuto && decide (l.divisor = 0)) .invalidDivisor

/-- CONVOLVE applies the kernel in memory to every lane of every source pixel (42_convolution.md R202, R203). -/
def convPlan (l : Operands) (ksize : Nat) (dynDiv procAlpha divAuto : Bool) : Except CmdError Plan := do
  let (s, d) ← checkBoth l fun _ => checkKernel l ksize divAuto
  raiseIf (!s.sameShape d) .sizeMismatch
  let p := convolvePlan s d (memoryKernel l ksize dynDiv procAlpha divAuto)
  return { p with kernelReads := kernelBytes l ksize, overlaps := p.overlaps || kernelOverlaps l ksize d }

/-- The meaning of CONVOLVE (42_convolution.md R203). -/
def execConvolve (ksize : Nat) (dynDiv procAlpha divAuto : Bool) (s : State) : Host.Outcome State Fault Refusal :=
  .next (s.runCommand (convPlan s.latched ksize dynDiv procAlpha divAuto))

end Sys2Proof.Machine
end

