-- ==== Sys2Proof/Machine/EdgeDetect.lean ====
section
/-! DEFINITION. The blur-detection command DETECT_BLUR (43_edge_detect.md R230 to R233). -/

namespace Sys2Proof.Machine

/-- The fixed Laplacian weights (43_edge_detect.md R230). -/
def laplacianWeight (i j : Nat) : Int :=
  match i, j with
  | 0, 1 => 1
  | 1, 0 => 1
  | 1, 1 => -4
  | 1, 2 => 1
  | 2, 1 => 1
  | _, _ => 0

/-- The parameters of the edge detector's convolution (43_edge_detect.md R230). -/
def laplacian : Kernel :=
  { size := 3, weight := laplacianWeight, divisor := 1, threshold := 0, dynDiv := false, procAlpha := false }

/-- The colour lanes of a format: those that are not alpha (20_memory.md R65). -/
def Format.colourLanes (f : Format) : List Nat := (List.range f.nlanes).filter fun l => !f.isAlpha l

/-- `maxG`: the greatest output over every pixel and every colour lane (43_edge_detect.md R231, R232). -/
def maxGradientOf (s : Buffer) (m : Memory) : Nat :=
  (s.pixels.flatMap fun p => s.fmt.colourLanes.map fun l => convolveLane s laplacian m p.1 p.2 l).foldl max 0

/-- DETECT_BLUR convolves SRC into the working buffer DST and takes the maximum of the values it computed
(43_edge_detect.md R231). -/
def blurPlan (l : Operands) : Except CmdError Plan := do
  let (s, d) ← checkBoth l fun _ => .ok ()
  raiseIf (!s.sameShape d) .sizeMismatch
  return { convolvePlan s d (fun _ => laplacian) with result := .blur l.edgeThreshold s.fmt.lanemax (maxGradientOf s) }

/-- The meaning of DETECT_BLUR (43_edge_detect.md R231). -/
def execDetectBlur (s : State) : Host.Outcome State Fault Refusal := .next (s.runCommand (blurPlan s.latched))

end Sys2Proof.Machine
end

