-- ==== Sys2Proof/Machine/Resample.lean ====
section
/-! DEFINITION. The resampling commands RESAMPLE.NEAREST, RESAMPLE.BILINEAR and RESAMPLE.BICUBIC (41_resample.md R160 to
R168). All arithmetic is binary64 in the order the rules give (00_scope.md R9). -/

namespace Sys2Proof.Machine

/-- The checks of `ResampleSetup` (41_resample.md R160); bicubic refuses a source format with 16-bit lanes (R166). -/
def resampleSetup (l : Operands) (bicubic : Bool) : Except CmdError (Buffer × Buffer) := do
  let (s, d) ← checkBoth l fun f => raiseIf (bicubic && decide (f.lw = 16)) .unsupportedFormat
  raiseIf (!decide (s.fmt = d.fmt)) .sizeMismatch
  return (s, d)

/-- `xF` or `yF`: source dimension over destination dimension (41_resample.md R160). -/
def factor (srcDim dstDim : Nat) : F64 := fdiv (f64 srcDim) (f64 dstDim)

/-- The sample position `f64(n) *. factor` (41_resample.md R161, R162). -/
def position (n : Nat) (fac : F64) : F64 := fmul (f64 n) fac

/-- The source index of a destination index for NEAREST (41_resample.md R161). -/
def nearestIndex (n : Nat) (fac : F64) : Nat := (ffloor (position n fac)).toNat

/-- The plan of a command that writes each byte of each destination pixel: `reads` and `value` for byte i of pixel (x, y). -/
def perByte (s d : Buffer) (reads : Nat → Nat → Nat → List Nat) (value : Nat → Nat → Nat → Memory → Byte) : Plan :=
  let cells := d.pixels.flatMap fun p => (List.range d.fmt.bpp).map fun i => (p.1, p.2, i)
  { Plan.empty with
    reads := cells.flatMap fun c => reads c.1 c.2.1 c.2.2
    stores := cells.map fun c => d.byteWrite c.1 c.2.1 c.2.2 (value c.1 c.2.1 c.2.2)
    overlaps := !(s.overlap d).isEmpty
    overlapped := s.overlap d }

/-- NEAREST copies the raw bytes of one source pixel (41_resample.md R161). -/
def nearestPlan (l : Operands) : Except CmdError Plan := do
  let (s, d) ← resampleSetup l false
  let sx (x : Nat) : Nat := nearestIndex x (factor s.width d.width)
  let sy (y : Nat) : Nat := nearestIndex y (factor s.height d.height)
  return perByte s d (fun x y i => [s.pixAddr (sx x) (sy y) + i]) fun x y i m => s.byteRead m (sx x) (sy y) i

/-- The meaning of RESAMPLE.NEAREST (41_resample.md R161). -/
def execResampleNearest (s : State) : Host.Outcome State Fault Refusal :=
  .next (s.runCommand (nearestPlan s.latched))

/-- One axis of a bilinear sample: the two source indices and their weights (41_resample.md R162). -/
structure LinearAxis where
  near : Nat
  far : Nat
  farWeight : F64
  nearWeight : F64

/-- `ox1`, `ox2`, `dx1`, `dx2` of a destination index (41_resample.md R162). -/
def linearAxis (n : Nat) (srcDim dstDim : Nat) : LinearAxis :=
  let o := position n (factor srcDim dstDim)
  let o1 := ffloor o
  let d1 := fsub o (f64 o1)
  { near := o1.toNat, far := (min (o1 + 1) ((srcDim : Int) - 1)).toNat, farWeight := d1, nearWeight := fsub 1 d1 }

/-- The interpolated byte: two rows, then the columns, truncated and clamped (41_resample.md R162). -/
def bilinearByte (ax ay : LinearAxis) (p1 p2 p3 p4 : Byte) : Byte :=
  let row (a b : Byte) : F64 :=
    fadd (fmul ax.nearWeight (f64 a.toNat)) (fmul ax.farWeight (f64 b.toNat))
  let r := fadd (fmul ay.nearWeight (row p1 p2)) (fmul ay.farWeight (row p3 p4))
  BitVec.ofNat 8 (iclamp (ftrunc r) 0 255).toNat

/-- BILINEAR interpolates each raw byte from the four nearest source pixels (41_resample.md R162). -/
def bilinearPlan (l : Operands) : Except CmdError Plan := do
  let (s, d) ← resampleSetup l false
  let ax (x : Nat) : LinearAxis := linearAxis x s.width d.width
  let ay (y : Nat) : LinearAxis := linearAxis y s.height d.height
  return perByte s d
    (fun x y i =>
      [ s.pixAddr (ax x).near (ay y).near + i, s.pixAddr (ax x).far (ay y).near + i,
        s.pixAddr (ax x).near (ay y).far + i, s.pixAddr (ax x).far (ay y).far + i ])
    fun x y i m =>
      bilinearByte (ax x) (ay y)
        (s.byteRead m (ax x).near (ay y).near i) (s.byteRead m (ax x).far (ay y).near i)
        (s.byteRead m (ax x).near (ay y).far i) (s.byteRead m (ax x).far (ay y).far i)

/-- The meaning of RESAMPLE.BILINEAR (41_resample.md R162). -/
def execResampleBilinear (s : State) : Host.Outcome State Fault Refusal :=
  .next (s.runCommand (bilinearPlan s.latched))

/-- `K(t)`, the cubic convolution kernel in the order R164 gives (41_resample.md R164). -/
def cubicKernel (t : F64) : F64 :=
  let a := magnitude t
  if a ≤ 1 then fadd (fmul (fmul (fsub (fmul (3 / 2) a) (5 / 2)) a) a) 1
  else if a < 2 then fadd (fmul (fsub (fmul (fadd (fmul (-1 / 2) a) (5 / 2)) a) 4) a) 2
  else 0

/-- One axis of a bicubic sample: the index `ox1` and the distance `dx` (41_resample.md R165). -/
structure CubicAxis where
  index : Int
  dist : F64

/-- `ox1` and `dx` of a destination index (41_resample.md R165). -/
def cubicAxis (n : Nat) (srcDim dstDim : Nat) : CubicAxis :=
  let o := fsub (position n (factor srcDim dstDim)) (1 / 2)
  { index := ffloor o, dist := fsub o (f64 (ffloor o)) }

/-- The four offsets of a bicubic sample, in the order of summation (41_resample.md R165). -/
def cubicOffsets : List Int := [-1, 0, 1, 2]

/-- The source index of an offset, clamped to the image (41_resample.md R165). -/
def cubicIndex (a : CubicAxis) (n : Int) (srcDim : Nat) : Nat := (iclamp (a.index + n) 0 ((srcDim : Int) - 1)).toNat

/-- The weighted sum over the 4 by 4 neighbourhood, rows outside and columns inside (41_resample.md R165). `lane sx sy` is
the source lane. -/
def cubicSum (ax ay : CubicAxis) (srcWidth srcHeight : Nat) (lane : Nat → Nat → Nat) : F64 :=
  cubicOffsets.foldl
    (fun acc n =>
      let k1 := cubicKernel (fsub ay.dist (f64 n))
      cubicOffsets.foldl
        (fun acc m =>
          let k2 := fmul k1 (cubicKernel (fsub (f64 m) ax.dist))
          fadd acc (fmul k2 (f64 (lane (cubicIndex ax m srcWidth) (cubicIndex ay n srcHeight)))))
        acc)
    0

/-- The lane BICUBIC writes: the sum clamped to [0, 255], then truncated (41_resample.md R165). -/
def cubicLane (ax ay : CubicAxis) (srcWidth srcHeight : Nat) (lane : Nat → Nat → Nat) : Nat :=
  (ftrunc (fclamp (cubicSum ax ay srcWidth srcHeight lane) 0 255)).toNat

/-- BICUBIC interpolates each lane, the alpha lane of RGB32 included, from a 4 by 4 neighbourhood (41_resample.md R165,
R167). -/
def bicubicPlan (l : Operands) : Except CmdError Plan := do
  let (s, d) ← resampleSetup l true
  let ax (x : Nat) : CubicAxis := cubicAxis x s.width d.width
  let ay (y : Nat) : CubicAxis := cubicAxis y s.height d.height
  let cells := d.pixels.flatMap fun p => (List.range s.fmt.nlanes).map fun k => (p.1, p.2, k)
  return { Plan.empty with
    reads := cells.flatMap fun c => cubicOffsets.flatMap fun n => cubicOffsets.flatMap fun m =>
      List.range' (s.laneAddr (cubicIndex (ax c.1) m s.width) (cubicIndex (ay c.2.1) n s.height) c.2.2) s.fmt.laneBytes
    stores := cells.flatMap fun c => d.laneWrite c.1 c.2.1 c.2.2 fun mem =>
      cubicLane (ax c.1) (ay c.2.1) s.width s.height fun sx sy => s.laneRead mem sx sy c.2.2
    overlaps := !(s.overlap d).isEmpty
    overlapped := s.overlap d }

/-- The meaning of RESAMPLE.BICUBIC (41_resample.md R165). -/
def execResampleBicubic (s : State) : Host.Outcome State Fault Refusal :=
  .next (s.runCommand (bicubicPlan s.latched))

end Sys2Proof.Machine
end

