-- ==== Sys2Proof/Machine/Dispatch.lean ====
section
/-! DEFINITION. The dispatch: one arm per command, each a direct call of its meaning (30_encoding.md R97). -/

namespace Sys2Proof.Machine

def exec (i : Instr) (s : State) : Host.Outcome State Fault Refusal :=
  match i with
  | .nop => Sys2Proof.Machine.execNop s
  | .clear => Sys2Proof.Machine.execClear s
  | .getPixel => Sys2Proof.Machine.execGetPixel s
  | .setPixel => Sys2Proof.Machine.execSetPixel s
  | .copy => Sys2Proof.Machine.execCopy s
  | .resampleNearest => Sys2Proof.Machine.execResampleNearest s
  | .resampleBilinear => Sys2Proof.Machine.execResampleBilinear s
  | .resampleBicubic => Sys2Proof.Machine.execResampleBicubic s
  | .convolve ksize dynDiv procAlpha divAuto => Sys2Proof.Machine.execConvolve ksize dynDiv procAlpha divAuto s
  | .detectBlur => Sys2Proof.Machine.execDetectBlur s

end Sys2Proof.Machine
end

