-- ==== Sys2Proof/WellFormed.lean ====
section
/-! DEFINITION. When a command has an encoding. KSIZE is a 7-bit immediate (30_encoding.md R94): every value from 0 to 127
decodes; which of them are kernels is checked at execution (42_convolution.md R202), not here. -/

namespace Sys2Proof

/-- The command's fields fit the fields of the command word (30_encoding.md R90, R94). -/
def Instr.wellFormed : Instr → Bool
  | .nop => true
  | .clear => true
  | .getPixel => true
  | .setPixel => true
  | .copy => true
  | .resampleNearest => true
  | .resampleBilinear => true
  | .resampleBicubic => true
  | .convolve ksize _ _ _ => decide (ksize < 2 ^ 7)
  | .detectBlur => true

end Sys2Proof
end

