-- ==== Sys2Proof/Decode.lean ====
section
/-! DEFINITION. The command decoder (30_encoding.md R96 to R98), total on 32-bit words, and after it the encoder, written
from the same table (R90 to R94). -/

namespace Sys2Proof

/-- Why a word is no command. Each of the three raises INVALID_COMMAND (30_encoding.md R98). -/
inductive IllegalWord where
  /-- OP is 0x8 to 0xF. -/
  | reservedOp
  /-- OP is 0x5 and ALG is 3. -/
  | reservedAlg
  /-- A field that OP does not read is not zero (R96). -/
  | nonzeroUnusedField
  deriving DecidableEq, Repr

/-- The commands that read no field but OP: bits 31:4 must be 0 (30_encoding.md R96). -/
def decodePlain (w : Word) (i : Instr) : Except IllegalWord Instr :=
  if bits w 31 4 = 0 then .ok i else .error .nonzeroUnusedField

/-- OP = 0x5: ALG selects the algorithm, bits 31:6 must be 0 (30_encoding.md R92, R96). -/
def decodeResample (w : Word) : Except IllegalWord Instr :=
  if bits w 31 6 = 0 then
    match bits w 5 4 with
    | 0 => .ok .resampleNearest
    | 1 => .ok .resampleBilinear
    | 2 => .ok .resampleBicubic
    | _ => .error .reservedAlg
  else .error .nonzeroUnusedField

/-- OP = 0x6: bits 7:4, 15:11 and 31:23 must be 0 (30_encoding.md R93, R94, R96). -/
def decodeConvolve (w : Word) : Except IllegalWord Instr :=
  if bits w 7 4 = 0 ∧ bits w 15 11 = 0 ∧ bits w 31 23 = 0 then
    .ok (.convolve (bits w 22 16) (bit w 8) (bit w 9) (bit w 10))
  else .error .nonzeroUnusedField

/-- The decoder: every 32-bit word selects one command or is illegal (30_encoding.md R97). -/
def decode (w : Word) : Except IllegalWord Instr :=
  match bits w 3 0 with
  | 0x0 => decodePlain w .nop
  | 0x1 => decodePlain w .clear
  | 0x2 => decodePlain w .getPixel
  | 0x3 => decodePlain w .setPixel
  | 0x4 => decodePlain w .copy
  | 0x5 => decodeResample w
  | 0x6 => decodeConvolve w
  | 0x7 => decodePlain w .detectBlur
  | _ => .error .reservedOp

/-- The word of a command (30_encoding.md R90; CONVOLVE: 42_convolution.md R203). In the host assembly's `go conv k`, where k may
be wider than the 7 bits of KSIZE, `k<<16` is taken on 32 bits (30_encoding.md R103, R104). DEDUCED; log 20. -/
def encode : Instr → Word
  | .nop => 0x00000000
  | .clear => 0x00000001
  | .getPixel => 0x00000002
  | .setPixel => 0x00000003
  | .copy => 0x00000004
  | .resampleNearest => 0x00000005
  | .resampleBilinear => 0x00000015
  | .resampleBicubic => 0x00000025
  | .convolve ksize dynDiv procAlpha divAuto =>
      BitVec.ofNat 32
        (0x6 + flag dynDiv * 2 ^ 8 + flag procAlpha * 2 ^ 9 + flag divAuto * 2 ^ 10 + ksize * 2 ^ 16)
  | .detectBlur => 0x00000007

/-- The command the decoder reads from an instruction of `nbits` bits `w`: a command is exactly one 32-bit word
(30_encoding.md R101), held in a register, so no byte order enters. A longer instruction is none. -/
def decodeTableWord (nbits w : Nat) : Option Instr :=
  if nbits ≤ 32 then
    match decode (BitVec.ofNat 32 (w % 2 ^ nbits)) with
    | .ok i => some i
    | .error _ => none
  else none

end Sys2Proof
end

