-- ==== Sys2Proof/Machine/Commands.lean ====
section
/-! DEFINITION. The accesses of the command in progress, for what the host does while it runs (20_memory.md R76, R77) and for
an abort (60_exceptions.md R255). -/

namespace Sys2Proof.Machine

/-- The operand checks and accesses of each command: the error it raises or its plan. -/
def commandPlan (i : Instr) (l : Operands) : Except CmdError Plan :=
  match i with
  | .nop => nopPlan l
  | .clear => clearPlan l
  | .getPixel => getPixelPlan l
  | .setPixel => setPixelPlan l
  | .copy => copyPlan l
  | .resampleNearest => nearestPlan l
  | .resampleBilinear => bilinearPlan l
  | .resampleBicubic => bicubicPlan l
  | .convolve ksize dynDiv procAlpha divAuto => convPlan l ksize dynDiv procAlpha divAuto
  | .detectBlur => blurPlan l

/-- The plan of the command in progress; the empty plan where there is none, its word is illegal, or its operand checks fail,
since such a command accesses no memory (60_exceptions.md R255). -/
def State.runningPlan (s : State) : Plan :=
  match s.engine with
  | .idle => Plan.empty
  | .busy l _ =>
    match decode l.cmd with
    | .error _ => Plan.empty
    | .ok i =>
      match commandPlan i l with
      | .error _ => Plan.empty
      | .ok p => p

/-- The bytes the command in progress may change (20_memory.md R76, R78). -/
def State.mayChange (s : State) : List Nat := s.runningPlan.mayChange

/-- The bytes the command in progress reads, kernel words included (20_memory.md R76, 70_reset_and_hazards.md R299). -/
def State.mayRead (s : State) : List Nat := s.runningPlan.kernelReads ++ s.runningPlan.reads

/-- An abort: every byte the command in progress may change holds an unspecified value (70_reset_and_hazards.md R291, item
I7). DONE and ERR are not touched. -/
def State.abort (s : State) : State :=
  match s.mayChange with
  | [] => s
  | a :: rest => s.unspecify (a :: rest)

/-- `SoftReset()`: abort the command in progress, then every register at its reset value (10_state.md R30). The hardware
reset has the same effect (70_reset_and_hazards.md R290). -/
def State.softReset (s : State) : State := s.abort.clearRegisters

end Sys2Proof.Machine
end

