-- ==== Sys2Proof/Machine/Port.lean ====
section
/-! DEFINITION. What the host can do: the register block behind the slave port (10_state.md R20 to R46), the host's own
accesses to the data memory (20_memory.md R77, item I5), and the hardware reset input (70_reset_and_hazards.md R293). -/

namespace Sys2Proof.Machine

/-- The registers of the block (10_state.md R21). -/
inductive Reg where
  | id | ctrl | status | cmd | errInfo
  | srcBase | srcSize | srcStride | srcFmt
  | dstBase | dstSize | dstStride | dstFmt
  | kernelBase | divisor | threshold | edgeThreshold
  | pixXY | pixB | pixG | pixR | pixA
  | blurResult | maxGradient
  deriving DecidableEq, Repr

/-- The register at an offset; none at a reserved offset (10_state.md R21, R23). -/
def Reg.ofOffset (offset : Nat) : Option Reg :=
  match offset with
  | 0x000 => some .id
  | 0x004 => some .ctrl
  | 0x008 => some .status
  | 0x00C => some .cmd
  | 0x010 => some .errInfo
  | 0x020 => some .srcBase
  | 0x024 => some .srcSize
  | 0x028 => some .srcStride
  | 0x02C => some .srcFmt
  | 0x030 => some .dstBase
  | 0x034 => some .dstSize
  | 0x038 => some .dstStride
  | 0x03C => some .dstFmt
  | 0x040 => some .kernelBase
  | 0x044 => some .divisor
  | 0x048 => some .threshold
  | 0x04C => some .edgeThreshold
  | 0x050 => some .pixXY
  | 0x054 => some .pixB
  | 0x058 => some .pixG
  | 0x05C => some .pixR
  | 0x060 => some .pixA
  | 0x064 => some .blurResult
  | 0x068 => some .maxGradient
  | _ => none

/-- What a read of a register returns; a read has no side effect (10_state.md R21, R24, R28, R32, 20_memory.md R73). -/
def State.readReg (s : State) : Reg → Word
  | .id => Config.idValue
  | .ctrl => s.ctrlWord
  | .status => s.statusWord
  | .cmd => s.operands.cmd
  | .errInfo => s.errInfo
  | .srcBase => s.operands.src.base
  | .srcSize => s.operands.src.size
  | .srcStride => s.operands.src.stride
  | .srcFmt => s.operands.src.fmt.setWidth 32
  | .dstBase => s.operands.dst.base
  | .dstSize => s.operands.dst.size
  | .dstStride => s.operands.dst.stride
  | .dstFmt => s.operands.dst.fmt.setWidth 32
  | .kernelBase => s.operands.kernelBase
  | .divisor => s.operands.divisor
  | .threshold => s.operands.threshold
  | .edgeThreshold => s.operands.edgeThreshold
  | .pixXY => s.operands.pixXY
  | .pixB => s.operands.pixB.setWidth 32
  | .pixG => s.operands.pixG.setWidth 32
  | .pixR => s.operands.pixR.setWidth 32
  | .pixA => s.operands.pixA.setWidth 32
  | .blurResult => s.blurWord
  | .maxGradient => s.maxGradient

/-- The operand registers after a write that is not ignored (10_state.md R24, R40 to R44); other registers are not here. -/
def Operands.write (o : Operands) (r : Reg) (v : Word) : Operands :=
  match r with
  | .cmd => { o with cmd := v }
  | .srcBase => { o with src := { o.src with base := v } }
  | .srcSize => { o with src := { o.src with size := v } }
  | .srcStride => { o with src := { o.src with stride := v } }
  | .srcFmt => { o with src := { o.src with fmt := v.setWidth 3 } }
  | .dstBase => { o with dst := { o.dst with base := v } }
  | .dstSize => { o with dst := { o.dst with size := v } }
  | .dstStride => { o with dst := { o.dst with stride := v } }
  | .dstFmt => { o with dst := { o.dst with fmt := v.setWidth 3 } }
  | .kernelBase => { o with kernelBase := v }
  | .divisor => { o with divisor := v }
  | .threshold => { o with threshold := v }
  | .edgeThreshold => { o with edgeThreshold := v }
  | .pixXY => { o with pixXY := v }
  | .pixB => { o with pixB := v.setWidth 16 }
  | .pixG => { o with pixG := v.setWidth 16 }
  | .pixR => { o with pixR := v.setWidth 16 }
  | .pixA => { o with pixA := v.setWidth 16 }
  | .id => o
  | .ctrl => o
  | .status => o
  | .errInfo => o
  | .blurResult => o
  | .maxGradient => o

/-- STATUS.OVR becomes 1 (10_state.md R36). -/
def State.setOvr (s : State) : State := { s with ovr := true }

/-- A write to CMD or an operand register: ignored with OVR set while BUSY (10_state.md R46). -/
def State.writeOperand (s : State) (r : Reg) (v : Word) : State :=
  if s.busy then s.setOvr else { s with operands := s.operands.write r v }

/-- A CTRL write: SOFT_RESET wins over the rest; else IRQ_EN is stored, and START is accepted when IDLE, or ignored with OVR
set (10_state.md R29, R31). -/
def State.writeCtrl (s : State) (v : Word) : State :=
  if bit v 1 then s.softReset
  else
    let t : State := { s with irqEn := bit v 2 }
    if bit v 0 then (if t.busy then t.setOvr else t.accept) else t

/-- A write to a register; a write to a read-only register is ignored and leaves OVR alone (10_state.md R21, R46). -/
def State.writeReg (s : State) (r : Reg) (v : Word) : State :=
  match r with
  | .ctrl => s.writeCtrl v
  | .status => s.acknowledge v
  | .id => s
  | .errInfo => s
  | .blurResult => s
  | .maxGradient => s
  | .cmd => s.writeOperand .cmd v
  | .srcBase => s.writeOperand .srcBase v
  | .srcSize => s.writeOperand .srcSize v
  | .srcStride => s.writeOperand .srcStride v
  | .srcFmt => s.writeOperand .srcFmt v
  | .dstBase => s.writeOperand .dstBase v
  | .dstSize => s.writeOperand .dstSize v
  | .dstStride => s.writeOperand .dstStride v
  | .dstFmt => s.writeOperand .dstFmt v
  | .kernelBase => s.writeOperand .kernelBase v
  | .divisor => s.writeOperand .divisor v
  | .threshold => s.writeOperand .threshold v
  | .edgeThreshold => s.writeOperand .edgeThreshold v
  | .pixXY => s.writeOperand .pixXY v
  | .pixB => s.writeOperand .pixB v
  | .pixG => s.writeOperand .pixG v
  | .pixR => s.writeOperand .pixR v
  | .pixA => s.writeOperand .pixA v

/-- The offset of a defined access: 32 bits wide, aligned, inside the block (10_state.md R22). -/
def State.portOffset (s : State) (addr bytes : Nat) : Option Nat :=
  if bytes = 4 ∧ s.platform.regBase ≤ addr ∧ addr < s.platform.regBase + Config.regBlockSize ∧
      (addr - s.platform.regBase) % 4 = 0 then
    some (addr - s.platform.regBase)
  else none

/-- What a defined read returns; a reserved offset reads 0 (10_state.md R23). -/
def State.readOffset (s : State) (offset : Nat) : Word :=
  match Reg.ofOffset offset with
  | some r => s.readReg r
  | none => 0

/-- The effect of a defined write; a write to a reserved offset is ignored (10_state.md R23). -/
def State.writeOffset (s : State) (offset : Nat) (v : Word) : State :=
  match Reg.ofOffset offset with
  | some r => s.writeReg r v
  | none => s

/-- A value is returned to the host. -/
def State.output (s : State) (o : Output) : State := { s with outputs := s.outputs ++ [o] }

/-- The input at the head of the list has been taken. -/
def State.withInputs (s : State) (rest : List Input) : State := { s with inputs := rest }

/-- A register access reaches the block: refused while the reset input is asserted (item I11) or where it is not a defined
access (item I3). -/
def State.onPort (s : State) (addr bytes : Nat) (effect : Nat → State) : Host.Outcome State Fault Refusal :=
  if s.resetAsserted then .refused .accessDuringReset
  else
    match s.portOffset addr bytes with
    | none => .refused .undefinedRegisterAccess
    | some offset => .next (effect offset)

/-- The host reads a data-memory byte: a byte that the command in progress reads or may change reads as any value
(20_memory.md R77, 70_reset_and_hazards.md R299, item I5; log 11). -/
def State.hostRead (s : State) (a : Nat) : State :=
  if a ∈ s.mayRead ∨ a ∈ s.mayChange then (s.output (.byte (Config.freeByte s.draws a))).nextDraw
  else s.output (.byte (s.mem.read a))

/-- The breach record of the command in progress becomes b. -/
def State.withBreach (s : State) (b : Breach) : State :=
  match s.engine with
  | .idle => s
  | .busy l _ => { s with engine := .busy l b }

/-- The host writes a data-memory byte. A byte the command in progress may change then holds any value, now and at the
command's end; a byte it reads makes all its outputs unspecified at its end (20_memory.md R77, item I5; log 11). -/
def State.hostWrite (s : State) (a : Nat) (v : Byte) : State :=
  let b : Breach :=
    { sourceWritten := s.breach.sourceWritten || decide (a ∈ s.mayRead)
      destWritten := if a ∈ s.mayChange then a :: s.breach.destWritten else s.breach.destWritten }
  let t := if a ∈ s.mayChange then s.unspecify [a] else s.withMem (s.mem.write a v)
  t.withBreach b

/-- The effect of one event of the world outside the engine, already taken from the list. -/
def State.hostEvent (s : State) : Input → Host.Outcome State Fault Refusal
  | .regRead addr bytes => s.onPort addr bytes fun offset => s.output (.word (s.readOffset offset))
  | .regWrite addr bytes data => s.onPort addr bytes fun offset => s.writeOffset offset data
  | .poll addr _ _ => s.onPort addr 4 fun _ => s
  | .memRead addr => if addr < Config.memorySize then .next (s.hostRead addr) else .fault .noSuchMemoryAddress
  | .memWrite addr data =>
      if addr < Config.memorySize then .next (s.hostWrite addr data) else .fault .noSuchMemoryAddress
  | .resetAssert => .next { s.softReset with resetAsserted := true }
  | .resetRelease => .next { s with resetAsserted := false }
  | .engineTurn => .next s

/-- The condition of a poll does not hold yet: the read is a defined one and the value under the mask differs
(30_encoding.md R103). -/
def State.pollWaits (s : State) (addr : Nat) (mask value : Word) : Bool :=
  match s.resetAsserted, s.portOffset addr 4 with
  | false, some offset => !decide (s.readOffset offset &&& mask = value)
  | _, _ => false

/-- Which agent moves in a step, and the state it moves from. -/
inductive Turn where
  /-- The engine. -/
  | engine (s : State)
  /-- The world outside: this event, taken from the list. -/
  | host (i : Input) (s : State)
  deriving DecidableEq, Repr

/-- Whose step it is (log 5): the engine's where no event is left, where the list says so, or where the host polls in vain;
else the host's. -/
def State.turn (s : State) : Turn :=
  match s.inputs with
  | [] => .engine s
  | i :: rest =>
    match i with
    | .engineTurn => .engine (s.withInputs rest)
    | .poll addr mask value =>
        if s.pollWaits addr mask value then .engine s else .host (.poll addr mask value) (s.withInputs rest)
    | .regRead addr bytes => .host (.regRead addr bytes) (s.withInputs rest)
    | .regWrite addr bytes data => .host (.regWrite addr bytes data) (s.withInputs rest)
    | .memRead addr => .host (.memRead addr) (s.withInputs rest)
    | .memWrite addr data => .host (.memWrite addr data) (s.withInputs rest)
    | .resetAssert => .host .resetAssert (s.withInputs rest)
    | .resetRelease => .host .resetRelease (s.withInputs rest)

/-- The command word w reaches the engine: the host has written it to CMD and its START has been accepted, the reset input
being released and no event standing before the engine's turn (log 1). -/
def State.withCommand (s : State) (w : Word) : State :=
  ({ s with operands := s.operands.write .cmd w, engine := .idle, resetAsserted := false, inputs := [] }).accept

end Sys2Proof.Machine
end

