-- ==== Sys2Proof/Machine/Step.lean ====
section
/-! DEFINITION. One step of the machine: an event of the host, or the engine's turn. -/

namespace Sys2Proof.Machine

/-- The engine's turn: nothing while IDLE (60_exceptions.md R272); while BUSY, `Execute(L)`: the latched word is decoded and
its command runs to its end, or INVALID_COMMAND is raised (30_encoding.md R97, R98). -/
def engineTurn (s : State) : Host.Outcome State Fault Refusal :=
  match s.engine with
  | .idle => .next s
  | .busy l _ =>
    match decode l.cmd with
    | .ok i => exec i s
    | .error _ => .next (s.raise .invalidCommand 0)

/-- One step. -/
def step (s : State) : Host.Outcome State Fault Refusal :=
  match s.turn with
  | .engine t => engineTurn t
  | .host i t => t.hostEvent i

/-- The state whose next step runs the instruction of `nbits` bits `w`: its word is in CMD and has been accepted
(30_encoding.md R101: a command is one 32-bit word). It stands for the host's `wr CMD, w; wr CTRL, 1` (log 1). -/
def State.withFetchWord (s : State) (nbits w : Nat) : State := s.withCommand (BitVec.ofNat 32 (w % 2 ^ nbits))

end Sys2Proof.Machine
end

