-- ==== Sys2Proof/Machine/HostProgram.lean ====
section
/-! DEFINITION. The host assembly (30_encoding.md R103, R104): each statement as the events it stands for, for a register
block at `base`. -/

namespace Sys2Proof.Machine

/-- The offset of a register (10_state.md R21). -/
def Reg.offset : Reg → Nat
  | .id => 0x000
  | .ctrl => 0x004
  | .status => 0x008
  | .cmd => 0x00C
  | .errInfo => 0x010
  | .srcBase => 0x020
  | .srcSize => 0x024
  | .srcStride => 0x028
  | .srcFmt => 0x02C
  | .dstBase => 0x030
  | .dstSize => 0x034
  | .dstStride => 0x038
  | .dstFmt => 0x03C
  | .kernelBase => 0x040
  | .divisor => 0x044
  | .threshold => 0x048
  | .edgeThreshold => 0x04C
  | .pixXY => 0x050
  | .pixB => 0x054
  | .pixG => 0x058
  | .pixR => 0x05C
  | .pixA => 0x060
  | .blurResult => 0x064
  | .maxGradient => 0x068

/-- `wr REG, v` (30_encoding.md R103). -/
def asmWr (base : Nat) (r : Reg) (v : Word) : Input := .regWrite (base + r.offset) 4 v

/-- `rd REG` (30_encoding.md R103). -/
def asmRd (base : Nat) (r : Reg) : Input := .regRead (base + r.offset) 4

/-- `poll REG, m, v` (30_encoding.md R103). -/
def asmPoll (base : Nat) (r : Reg) (m v : Word) : Input := .poll (base + r.offset) m v

/-- `(high<<16)|low` on 32-bit values, as SIZE and PIX_XY pack two numbers (30_encoding.md R104). DEDUCED: the shift drops
the bits above bit 31, since a register access carries 32-bit data (R103); log 20. -/
def packHalves (low high : Word) : Word := high <<< 16 ||| low

/-- `src base, w, h, stride, fmt` (30_encoding.md R104). -/
def asmSrc (base : Nat) (addr w h stride fmt : Word) : List Input :=
  [asmWr base .srcBase addr, asmWr base .srcSize (packHalves w h), asmWr base .srcStride stride, asmWr base .srcFmt fmt]

/-- `dst base, w, h, stride, fmt` (30_encoding.md R104). -/
def asmDst (base : Nat) (addr w h stride fmt : Word) : List Input :=
  [asmWr base .dstBase addr, asmWr base .dstSize (packHalves w h), asmWr base .dstStride stride, asmWr base .dstFmt fmt]

/-- `xy x, y` (30_encoding.md R104). -/
def asmXY (base : Nat) (x y : Word) : List Input := [asmWr base .pixXY (packHalves x y)]

/-- `bgra b, g, r, a` (30_encoding.md R104). -/
def asmBgra (base : Nat) (b g r a : Word) : List Input :=
  [asmWr base .pixB b, asmWr base .pixG g, asmWr base .pixR r, asmWr base .pixA a]

/-- `go <cmd>` and `go <cmd>, irq`: the command word, then START, with IRQ_EN as the flag says (30_encoding.md R104). -/
def asmGo (base : Nat) (i : Instr) (irq : Bool) : List Input :=
  [asmWr base .cmd (encode i), asmWr base .ctrl (if irq then 0x5 else 0x1)]

/-- `wait`: poll until DONE = 1 (30_encoding.md R104). -/
def asmWait (base : Nat) : List Input := [asmPoll base .status 0x2 0x2]

/-- `ack`: clear DONE, ERR and OVR (30_encoding.md R104). -/
def asmAck (base : Nat) : List Input := [asmWr base .status 0xE]

end Sys2Proof.Machine
end

