-- ==== Sys2Proof/Safety.lean ====
section
/-! DEFINITION. The terms in which claims speak of the machine: when a descriptor names a buffer, when an operand check
raises, how a command ends, which host events have an effect, and the invariant that every step keeps. -/

namespace Sys2Proof.Machine

/-- The descriptor passes the checks of 20_memory.md R69 and its numbers are those of b (10_state.md R40). -/
abbrev Descriptor.names (d : Descriptor) (b : Buffer) : Prop :=
  Format.ofCode d.fmt = some b.fmt ∧ b.base = d.base.toNat ∧ b.width = bits d.size 15 0 ∧
    b.height = bits d.size 31 16 ∧ b.stride = d.stride.toNat ∧ 0 < b.width ∧ 0 < b.height ∧
    b.width * b.fmt.bpp ≤ b.stride ∧ b.base + b.stride * b.height ≤ 2 ^ 32

/-- `CheckFmt` raises: the code is 6 or 7 (20_memory.md R69). -/
def Descriptor.badFormat (d : Descriptor) : Bool := decide (5 < d.fmt.toNat)

/-- Bytes per pixel of a format code (20_memory.md R63); 0 for a reserved code. -/
def bppOfCode (c : BitVec 3) : Nat :=
  match Format.ofCode c with
  | some f => f.bpp
  | none => 0

/-- `CheckShape` raises (20_memory.md R69). -/
def Descriptor.badShape (d : Descriptor) : Bool :=
  decide (bits d.size 15 0 = 0) || decide (bits d.size 31 16 = 0) ||
    decide (d.stride.toNat < bits d.size 15 0 * bppOfCode d.fmt) ||
    decide (2 ^ 32 < d.base.toNat + d.stride.toNat * bits d.size 31 16)

/-- The error of the first check that holds (60_exceptions.md R262). -/
def firstError : List (Bool × CmdError) → Option CmdError
  | [] => none
  | (c, e) :: rest => if c then some e else firstError rest

/-- The two regions have no byte in common (20_memory.md R78). -/
abbrev Buffer.apart (a b : Buffer) : Prop := a.limit ≤ b.base ∨ b.limit ≤ a.base

/-- a is the address of a byte of a pixel of b (20_memory.md R76). -/
abbrev Buffer.isPixelByte (b : Buffer) (a : Nat) : Prop :=
  ∃ y, y < b.height ∧ ∃ x, x < b.width ∧ ∃ i, i < b.fmt.bpp ∧ a = b.pixAddr x y + i

/-- Every access of the kind to every pixel byte of b is admitted (20_memory.md R61). -/
abbrev State.admitsPixels (s : State) (k : AccessKind) (b : Buffer) : Prop :=
  ∀ y, y < b.height → ∀ x, x < b.width → ∀ i, i < b.fmt.bpp → memOK s.platform k (b.pixAddr x y + i) = true

/-- The end of a successful command that changed nothing but memory (10_state.md R47). -/
def State.ended (s : State) (m : Memory) : State := { s with mem := m, engine := .idle, done := true }

/-- The end of a command by an operand-check error (60_exceptions.md R254, R255): no memory changes, ERR_INFO is 0. -/
def State.endedWith (s : State) (e : CmdError) : State :=
  { s with errCode := some e, errInfo := 0, err := true, done := true, engine := .idle }

/-- The errors a command can raise after it is decoded (60_exceptions.md R261). -/
def allowedErrors : Instr → List CmdError
  | .nop => []
  | .clear => [.unsupportedFormat, .sizeMismatch, .busError]
  | .getPixel => [.outOfRange, .unsupportedFormat, .sizeMismatch, .busError]
  | .setPixel => [.outOfRange, .unsupportedFormat, .sizeMismatch, .busError]
  | .copy => [.unsupportedFormat, .sizeMismatch, .busError]
  | .resampleNearest => [.unsupportedFormat, .sizeMismatch, .busError]
  | .resampleBilinear => [.unsupportedFormat, .sizeMismatch, .busError]
  | .resampleBicubic => [.unsupportedFormat, .sizeMismatch, .busError]
  | .convolve _ _ _ _ => [.unsupportedFormat, .invalidKernel, .invalidDivisor, .sizeMismatch, .busError]
  | .detectBlur => [.unsupportedFormat, .sizeMismatch, .busError]

/-- The commands that read one buffer and write another (30_encoding.md R102). -/
def hasTwoBuffers : Instr → Bool
  | .nop => false
  | .clear => false
  | .getPixel => false
  | .setPixel => false
  | .copy => true
  | .resampleNearest => true
  | .resampleBilinear => true
  | .resampleBicubic => true
  | .convolve _ _ _ _ => true
  | .detectBlur => true

/-- CMD and the operand registers: the registers whose writes BUSY blocks (10_state.md R46). -/
def Reg.isOperand : Reg → Bool
  | .id => false
  | .ctrl => false
  | .status => false
  | .errInfo => false
  | .blurResult => false
  | .maxGradient => false
  | .cmd => true
  | .srcBase => true
  | .srcSize => true
  | .srcStride => true
  | .srcFmt => true
  | .dstBase => true
  | .dstSize => true
  | .dstStride => true
  | .dstFmt => true
  | .kernelBase => true
  | .divisor => true
  | .threshold => true
  | .edgeThreshold => true
  | .pixXY => true
  | .pixB => true
  | .pixG => true
  | .pixR => true
  | .pixA => true

/-- How many low bits of an operand register are stored; the others are reserved (10_state.md R24). -/
def Reg.storedBits : Reg → Nat
  | .srcFmt => 3
  | .dstFmt => 3
  | .pixB => 16
  | .pixG => 16
  | .pixR => 16
  | .pixA => 16
  | _ => 32

/-- A 32-bit access to an aligned address inside the block, the reset input being released (10_state.md R22). -/
abbrev State.definedAccess (s : State) (addr bytes : Nat) : Prop :=
  s.resetAsserted = false ∧ bytes = 4 ∧ s.platform.regBase ≤ addr ∧ addr < s.platform.regBase + 128 ∧
    (addr - s.platform.regBase) % 4 = 0

/-- The spec gives the event an effect: a register access is a defined one, a memory access is to a byte that exists. -/
def Input.defined (s : State) : Input → Prop
  | .regRead addr bytes => s.definedAccess addr bytes
  | .regWrite addr bytes _ => s.definedAccess addr bytes
  | .poll addr _ _ => s.definedAccess addr 4
  | .memRead addr => addr < 2 ^ 32
  | .memWrite addr _ => addr < 2 ^ 32
  | .resetAssert => True
  | .resetRelease => True
  | .engineTurn => True

/-- A value binary64 represents: an integer below 2^53 in magnitude times a power of two, no finer than 2^-1074
(00_scope.md R9). -/
def IsBinary64 (r : Rat) : Prop := ∃ n e : Int, |n| < 2 ^ 53 ∧ -1074 ≤ e ∧ r = n * (2 : ℚ) ^ e

/-- Cell (i, j) of the window of output (x, y) lies in the image, r being the radius (42_convolution.md R203). -/
abbrev inImage (b : Buffer) (r x y i j : Nat) : Prop :=
  0 ≤ (x : Int) + j - r ∧ (x : Int) + j - r < b.width ∧ 0 ≤ (y : Int) + i - r ∧ (y : Int) + i - r < b.height

/-- The lane under cell (i, j) of the window of output (x, y) (42_convolution.md R203). -/
def cellLane (b : Buffer) (m : Memory) (r x y i j l : Nat) : Int :=
  (b.laneRead m ((x : Int) + j - r).toNat ((y : Int) + i - r).toNat l : Int)

/-- The weighted sum over the cells in the image, as a sum (42_convolution.md R203). -/
def cellSum (b : Buffer) (m : Memory) (k : Nat) (wt : Nat → Nat → Int) (x y l : Nat) : Int :=
  ∑ i ∈ Finset.range k, ∑ j ∈ Finset.range k,
    if inImage b (k / 2) x y i j then wt i j * cellLane b m (k / 2) x y i j l else 0

/-- The sum of the weights of the cells in the image (42_convolution.md R204). -/
def cellWeights (b : Buffer) (k : Nat) (wt : Nat → Nat → Int) (x y : Nat) : Int :=
  ∑ i ∈ Finset.range k, ∑ j ∈ Finset.range k, if inImage b (k / 2) x y i j then wt i j else 0

/-- Some cell of the window is outside the image: a clipped window (00_scope.md R13). -/
abbrev clippedWindow (b : Buffer) (k x y : Nat) : Prop := ∃ i, i < k ∧ ∃ j, j < k ∧ ¬ inImage b (k / 2) x y i j

/-- The value a convolution gives a lane that it does not copy (42_convolution.md R203, R204). -/
def filteredLane (b : Buffer) (m : Memory) (k : Nat) (wt : Nat → Nat → Int) (cdiv thr : Int) (dynDiv : Bool)
    (x y l : Nat) : Int :=
  let dv := if clippedWindow b k x y ∧ dynDiv = true then cellWeights b k wt x y else cdiv
  let q := if dv = 0 then cellSum b m k wt x y l else Int.tdiv (cellSum b m k wt x y l) dv
  max 0 (min (q + thr) b.fmt.lanemax)

/-- `Wt(i, j)` (42_convolution.md R200). -/
def wordWeight (m : Memory) (kernelBase k i j : Nat) : Int :=
  (BitVec.ofNat 32 (m.readLE (kernelBase + 4 * (i * k + j)) 4)).toInt

/-- `cdiv` (42_convolution.md R201). -/
def chosenDivisor (k : Nat) (wt : Nat → Nat → Int) (divAuto : Bool) (divisor : Word) : Int :=
  let tot := ∑ i ∈ Finset.range k, ∑ j ∈ Finset.range k, wt i j
  if divAuto then (if tot = 0 then 1 else tot) else divisor.toInt

/-- What holds at reset and is kept by every step. -/
structure State.Inv (s : State) : Prop where
  /-- The memory is in its canonical form. -/
  memCanonical : s.mem.wf = true
  /-- Every listed byte exists (20_memory.md R61). -/
  memInSpace : s.mem.inSpace = true
  /-- ERR is set exactly while an error code is pending (10_state.md R35, R37). -/
  errHasCode : s.err = s.errCode.isSome
  /-- While BUSY, DONE and ERR are 0 (10_state.md R45, 70_reset_and_hazards.md R302). -/
  busyNotEnded : s.busy = true → s.done = false ∧ s.err = false
  /-- BLUR_RESULT is 0 or has VALID set (10_state.md R48). -/
  blurredIsValid : s.isBlurred = true → s.blurValid = true
  /-- ERR_INFO is 0 for every pending error but BUS_ERROR (10_state.md R39). -/
  infoOnlyForBus : ∀ e, s.errCode = some e → e ≠ .busError → s.errInfo = 0
  /-- While the reset input is asserted, every register has its reset value (70_reset_and_hazards.md R290). -/
  heldInReset : s.resetAsserted = true → s.clearRegisters = s
  /-- The breach record names bytes that exist. -/
  breachInSpace : ∀ a ∈ s.breach.destWritten, a < Config.memorySize

end Sys2Proof.Machine
end

