-- ==== Sys2Proof/Certificates/Slice0/Obligations.lean ====
section
/-! DEFINITION. The statements for the provers, from the numbered rules of spec/. OBLIGATIONS.json lists them. -/

open Sys2Proof Sys2Proof.Machine

/-! ## Encoding (30_encoding.md) -/

/-- Decoding the word of a well-formed command gives the command back (R90 to R97). -/
def Obligations.DecodeOfEncode : Prop := ∀ i : Instr, i.wellFormed = true → decode (encode i) = .ok i

/-- A word that decodes is the word of its command, bit for bit: there are no don't-care bits (R96). -/
def Obligations.EncodeOfDecode : Prop :=
  ∀ (w : Word) (i : Instr), decode w = .ok i → i.wellFormed = true ∧ encode i = w

/-- The illegal words are exactly those of R98, the fields an OP does not read being R96's, and the engine's turn in any BUSY
state that latched one raises INVALID_COMMAND with ERR_INFO 0 and no memory access, whatever events are to come; where none is
left, that turn is the step (R96, R98). -/
def Obligations.IllegalWordsRaiseInvalidCommand : Prop :=
  ∀ w : Word,
    ((∃ e, decode w = .error e) ↔
      (8 ≤ bits w 3 0 ∨ (bits w 3 0 = 5 ∧ bits w 5 4 = 3) ∨ (bits w 3 0 ≤ 4 ∧ bits w 31 4 ≠ 0) ∨
        (bits w 3 0 = 7 ∧ bits w 31 4 ≠ 0) ∨ (bits w 3 0 = 5 ∧ bits w 31 6 ≠ 0) ∨
        (bits w 3 0 = 6 ∧ (bits w 7 4 ≠ 0 ∨ bits w 15 11 ≠ 0 ∨ bits w 31 23 ≠ 0)))) ∧
    ∀ (s : State) (l : Operands) (b : Breach) (e : IllegalWord), s.engine = .busy l b → l.cmd = w →
      decode w = .error e →
      engineTurn s = .next (s.endedWith .invalidCommand) ∧
        (s.inputs = [] → step s = .next (s.endedWith .invalidCommand))

/-- A few words, written out from the table, decode to their commands (R91, R92, 42_convolution.md R203). -/
def Obligations.TableWordsDecode : Prop :=
  decode 0x00000000 = .ok .nop ∧ decode 0x00000003 = .ok .setPixel ∧ decode 0x00000004 = .ok .copy ∧
    decode 0x00000015 = .ok .resampleBilinear ∧ decode 0x00030406 = .ok (.convolve 3 false false true) ∧
    decode 0x00630706 = .ok (.convolve 99 true true true) ∧ decode 0x00000007 = .ok .detectBlur

/-! ## The step -/

/-- The engine's turn runs the command its latched word decodes to, whatever events are to come, and does nothing with no
command in progress (R97, 60_exceptions.md R272). A step is that turn where no event is left, where the list of events gives
the engine its turn, and at a poll whose condition does not hold (30_encoding.md R103; whose turn a step is, is the model's
choice, log 5). -/
def Obligations.StepRunsDecodedCommand : Prop :=
  ∀ s : State,
    (∀ l b i, s.engine = .busy l b → decode l.cmd = .ok i → engineTurn s = exec i s) ∧
    (s.engine = .idle → engineTurn s = .next s) ∧
    (s.inputs = [] → step s = engineTurn s) ∧
    (∀ rest, s.inputs = .engineTurn :: rest → step s = engineTurn (s.withInputs rest)) ∧
    ∀ (r : Reg) (mask value : Word) (rest : List Input), s.resetAsserted = false →
      s.inputs = .poll (s.platform.regBase + r.offset) mask value :: rest → s.readReg r &&& mask ≠ value →
      step s = engineTurn s

/-- Every command ends: the engine is IDLE and DONE is set, the interrupt output is IRQ_EN, and OVR, IRQ_EN, the reset input,
the platform and the events are untouched (10_state.md R47, R53, 70_reset_and_hazards.md R307). -/
def Obligations.EveryCommandEndsDone : Prop :=
  ∀ (i : Instr) (s : State), ∃ t, exec i s = .next t ∧ t.engine = .idle ∧ t.done = true ∧ t.irq = s.irqEn ∧
    t.irqEn = s.irqEn ∧ t.ovr = s.ovr ∧ t.resetAsserted = s.resetAsserted ∧ t.platform = s.platform ∧
    t.inputs = s.inputs ∧ t.outputs = s.outputs

/-- A host event to which the spec gives an effect never stops the machine; nor does the engine's turn (10_state.md R22). -/
def Obligations.DefinedEventsNeverStop : Prop :=
  ∀ s : State, (∀ i rest, s.inputs = i :: rest → i.defined s) → ∃ t, step s = .next t

/-! ## Pixel-lane commands (40_pixel_lanes.md) -/

/-- NOP, where the host has broken no obligation, ends with DONE and changes nothing else (R121). -/
def Obligations.NopOnlyCompletes : Prop :=
  ∀ s : State, s.breach = Breach.none → exec .nop s = .next { s with engine := .idle, done := true }

/-- CLEAR stores 0 to every byte of the region, padding included, and changes no other byte and no other state (R122). -/
def Obligations.ClearZeroFillsRegion : Prop :=
  ∀ (s : State) (d : Buffer), s.mem.wf = true → s.breach = Breach.none → s.latched.dst.names d →
    (∀ a, d.base ≤ a → a < d.limit → memOK s.platform .write a = true) →
    ∃ m, exec .clear s = .next (s.ended m) ∧
      ∀ a, m.read a = if d.base ≤ a ∧ a < d.limit then 0 else s.mem.read a

/-- GET_PIXEL writes the four PIX registers from the pixel's lanes: a gray intensity in B, G and R; A is 0 where there is no
alpha lane. Nothing else changes (R123). -/
def Obligations.GetPixelReadsLanes : Prop :=
  ∀ (s : State) (b : Buffer), s.breach = Breach.none → s.latched.src.names b →
    bits s.latched.pixXY 15 0 < b.width → bits s.latched.pixXY 31 16 < b.height →
    (∀ i, i < b.fmt.bpp →
      memOK s.platform .read (b.pixAddr (bits s.latched.pixXY 15 0) (bits s.latched.pixXY 31 16) + i) = true) →
    let lane (l : Nat) : Nat := b.laneRead s.mem (bits s.latched.pixXY 15 0) (bits s.latched.pixXY 31 16) l
    ∃ p : Pixel, exec .getPixel s =
        .next { s with
          operands := { s.operands with pixB := p.b, pixG := p.g, pixR := p.r, pixA := p.a }
          engine := .idle
          done := true } ∧
      p.b.toNat = lane 0 ∧ p.g.toNat = (if b.fmt.nlanes = 1 then lane 0 else lane 1) ∧
      p.r.toNat = (if b.fmt.nlanes = 1 then lane 0 else lane 2) ∧ p.a.toNat = if b.fmt.nlanes = 4 then lane 3 else 0

/-- SET_PIXEL writes the lanes of one pixel from the low bits of the PIX registers, a gray format the luma; no other byte and
no other state changes (R124). -/
def Obligations.SetPixelWritesLanes : Prop :=
  ∀ (s : State) (b : Buffer), s.mem.wf = true → s.breach = Breach.none → s.latched.dst.names b →
    bits s.latched.pixXY 15 0 < b.width → bits s.latched.pixXY 31 16 < b.height →
    (∀ i, i < b.fmt.bpp →
      memOK s.platform .write (b.pixAddr (bits s.latched.pixXY 15 0) (bits s.latched.pixXY 31 16) + i) = true) →
    let x := bits s.latched.pixXY 15 0
    let y := bits s.latched.pixXY 31 16
    let part (v : Half) : Nat := v.toNat % 2 ^ b.fmt.lw
    ∃ m, exec .setPixel s = .next (s.ended m) ∧
      (b.fmt.nlanes = 1 →
        b.laneRead m x y 0 =
          luma (part s.latched.pixR) (part s.latched.pixG) (part s.latched.pixB) b.fmt.lanemax) ∧
      (b.fmt.nlanes ≠ 1 →
        b.laneRead m x y 0 = part s.latched.pixB ∧ b.laneRead m x y 1 = part s.latched.pixG ∧
          b.laneRead m x y 2 = part s.latched.pixR) ∧
      (b.fmt.nlanes = 4 → b.laneRead m x y 3 = part s.latched.pixA) ∧
      ∀ a, (∀ i, i < b.fmt.bpp → a ≠ b.pixAddr x y + i) → m.read a = s.mem.read a

/-- The luma of lane values in range is the truncated weighted sum: the clamp never changes it (R125). -/
def Obligations.LumaClampNeverBinds : Prop :=
  ∀ r g b m : Nat, (m = 255 ∨ m = 65535) → r ≤ m → g ≤ m → b ≤ m →
    (luma r g b m : Int) =
      ftrunc
        (fadd (fadd (fmul (f64 r) (f64Const 2125 10000)) (fmul (f64 g) (f64Const 7154 10000)))
          (fmul (f64 b) (f64Const 721 10000)))

/-- The 8-bit greys that the luma does not map to themselves are eight, each mapped to one less (R125). -/
def Obligations.GreyLumaExceptions : Prop :=
  ∀ v : Fin 256, luma v v v 255 = if v.val ∈ [43, 86, 91, 167, 172, 182, 187, 233] then v.val - 1 else v.val

/-- COPY copies the first min(strides) bytes of every row, padding included, and changes no other byte and no other state
(R126). -/
def Obligations.CopyCopiesRows : Prop :=
  ∀ (s : State) (a b : Buffer), s.mem.wf = true → s.breach = Breach.none → s.latched.src.names a →
    s.latched.dst.names b → a.width = b.width → a.height = b.height → a.fmt = b.fmt → a.apart b →
    (∀ y, y < a.height → ∀ i, i < min a.stride b.stride →
      memOK s.platform .read (a.base + y * a.stride + i) = true ∧
        memOK s.platform .write (b.base + y * b.stride + i) = true) →
    ∃ m, exec .copy s = .next (s.ended m) ∧
      (∀ y, y < a.height → ∀ i, i < min a.stride b.stride →
        m.read (b.base + y * b.stride + i) = s.mem.read (a.base + y * a.stride + i)) ∧
      ∀ n, (∀ y, y < a.height → ∀ i, i < min a.stride b.stride → n ≠ b.base + y * b.stride + i) →
        m.read n = s.mem.read n

/-! ## Resampling (41_resample.md) -/

/-- RESAMPLE.NEAREST copies the raw bytes of the source pixel at the floors of the scaled indices, and changes no other byte
and no other state (R161, R168). -/
def Obligations.NearestCopiesSourcePixels : Prop :=
  ∀ (s : State) (a b : Buffer), s.mem.wf = true → s.breach = Breach.none → s.latched.src.names a →
    s.latched.dst.names b → a.fmt = b.fmt → a.apart b →
    let sx (x : Nat) : Nat := (ffloor (fmul (f64 x) (fdiv (f64 a.width) (f64 b.width)))).toNat
    let sy (y : Nat) : Nat := (ffloor (fmul (f64 y) (fdiv (f64 a.height) (f64 b.height)))).toNat
    (∀ y, y < b.height → ∀ x, x < b.width → ∀ i, i < a.fmt.bpp →
      memOK s.platform .read (a.pixAddr (sx x) (sy y) + i) = true) →
    s.admitsPixels .write b →
    ∃ m, exec .resampleNearest s = .next (s.ended m) ∧
      (∀ y, y < b.height → ∀ x, x < b.width → ∀ i, i < b.fmt.bpp →
        m.read (b.pixAddr x y + i) = s.mem.read (a.pixAddr (sx x) (sy y) + i)) ∧
      ∀ n, ¬ b.isPixelByte n → m.read n = s.mem.read n

/-- RESAMPLE.BILINEAR gives each raw byte the value of R162's formula, in its order of evaluation, and changes no other byte
and no other state (R162, R168). -/
def Obligations.BilinearInterpolatesBytes : Prop :=
  ∀ (s : State) (a b : Buffer), s.mem.wf = true → s.breach = Breach.none → s.latched.src.names a →
    s.latched.dst.names b → a.fmt = b.fmt → a.apart b →
    let ox (x : Nat) : F64 := fmul (f64 x) (fdiv (f64 a.width) (f64 b.width))
    let oy (y : Nat) : F64 := fmul (f64 y) (fdiv (f64 a.height) (f64 b.height))
    let ox1 (x : Nat) : Nat := (ffloor (ox x)).toNat
    let oy1 (y : Nat) : Nat := (ffloor (oy y)).toNat
    let ox2 (x : Nat) : Nat := (min (ffloor (ox x) + 1) ((a.width : Int) - 1)).toNat
    let oy2 (y : Nat) : Nat := (min (ffloor (oy y) + 1) ((a.height : Int) - 1)).toNat
    (∀ y, y < b.height → ∀ x, x < b.width → ∀ i, i < a.fmt.bpp →
      memOK s.platform .read (a.pixAddr (ox1 x) (oy1 y) + i) = true ∧
        memOK s.platform .read (a.pixAddr (ox2 x) (oy1 y) + i) = true ∧
        memOK s.platform .read (a.pixAddr (ox1 x) (oy2 y) + i) = true ∧
        memOK s.platform .read (a.pixAddr (ox2 x) (oy2 y) + i) = true) →
    s.admitsPixels .write b →
    ∃ m, exec .resampleBilinear s = .next (s.ended m) ∧
      (∀ y, y < b.height → ∀ x, x < b.width → ∀ i, i < b.fmt.bpp →
        let p (sx sy : Nat) : F64 := f64 (s.mem.read (a.pixAddr sx sy + i)).toNat
        let dx1 := fsub (ox x) (f64 (ffloor (ox x)))
        let dx2 := fsub 1 dx1
        let dy1 := fsub (oy y) (f64 (ffloor (oy y)))
        let dy2 := fsub 1 dy1
        let r := fadd
          (fmul dy2 (fadd (fmul dx2 (p (ox1 x) (oy1 y))) (fmul dx1 (p (ox2 x) (oy1 y)))))
          (fmul dy1 (fadd (fmul dx2 (p (ox1 x) (oy2 y))) (fmul dx1 (p (ox2 x) (oy2 y)))))
        ((m.read (b.pixAddr x y + i)).toNat : Int) = max 0 (min (ftrunc r) 255)) ∧
      ∀ n, ¬ b.isPixelByte n → m.read n = s.mem.read n

/-- RESAMPLE.BICUBIC gives each lane of an 8-bit-lane format, alpha included, the truncated clamp of R165's sum, rows outside
and columns inside, weighted by R164's two-part kernel in its order of evaluation, and changes no other byte and no other state
(R164, R165, R167, R168). -/
def Obligations.BicubicInterpolatesLanes : Prop :=
  ∀ (s : State) (a b : Buffer), s.mem.wf = true → s.breach = Breach.none → s.latched.src.names a →
    s.latched.dst.names b → a.fmt = b.fmt → a.fmt.lw = 8 → a.apart b →
    let ox (x : Nat) : F64 := fsub (fmul (f64 x) (fdiv (f64 a.width) (f64 b.width))) (1 / 2)
    let oy (y : Nat) : F64 := fsub (fmul (f64 y) (fdiv (f64 a.height) (f64 b.height))) (1 / 2)
    let sx (x : Nat) (k : Int) : Nat := (max 0 (min (ffloor (ox x) + k) ((a.width : Int) - 1))).toNat
    let sy (y : Nat) (k : Int) : Nat := (max 0 (min (ffloor (oy y) + k) ((a.height : Int) - 1))).toNat
    (∀ y, y < b.height → ∀ x, x < b.width → ∀ l, l < a.fmt.nlanes → ∀ n, n ∈ cubicOffsets → ∀ k, k ∈ cubicOffsets →
      memOK s.platform .read (a.laneAddr (sx x k) (sy y n) l) = true) →
    s.admitsPixels .write b →
    ∃ m, exec .resampleBicubic s = .next (s.ended m) ∧
      (∀ y, y < b.height → ∀ x, x < b.width → ∀ l, l < b.fmt.nlanes →
        let K (t : F64) : F64 :=
          if |t| ≤ 1 then fadd (fmul (fmul (fsub (fmul (3 / 2) |t|) (5 / 2)) |t|) |t|) 1
          else if |t| < 2 then fadd (fmul (fsub (fmul (fadd (fmul (-1 / 2) |t|) (5 / 2)) |t|) 4) |t|) 2
          else 0
        let dx := fsub (ox x) (f64 (ffloor (ox x)))
        let dy := fsub (oy y) (f64 (ffloor (oy y)))
        let term (acc : F64) (n k : Int) : F64 :=
          fadd acc
            (fmul (fmul (K (fsub dy (f64 n))) (K (fsub (f64 k) dx)))
              (f64 (a.laneRead s.mem (sx x k) (sy y n) l)))
        let row (acc : F64) (n : Int) : F64 := term (term (term (term acc n (-1)) n 0) n 1) n 2
        let acc := row (row (row (row 0 (-1)) 0) 1) 2
        (b.laneRead m x y l : Int) = ftrunc (max 0 (min acc 255))) ∧
      ∀ n, ¬ b.isPixelByte n → m.read n = s.mem.read n

/-- The source index of a destination index lies in the source (R161's bound). -/
def Obligations.SampleIndexInSource : Prop :=
  ∀ n srcDim dstDim : Nat, 0 < srcDim → srcDim ≤ 65535 → n < dstDim → dstDim ≤ 65535 →
    0 ≤ ffloor (position n (factor srcDim dstDim)) ∧ ffloor (position n (factor srcDim dstDim)) ≤ (srcDim : Int) - 1

/-- Resampling to the same size is the identity for NEAREST and BILINEAR (R161, R162). -/
def Obligations.SameSizeResampleIsIdentity : Prop :=
  ∀ (s : State) (a b : Buffer) (i : Instr), (i = .resampleNearest ∨ i = .resampleBilinear) → s.mem.wf = true →
    s.breach = Breach.none → s.latched.src.names a → s.latched.dst.names b → a.fmt = b.fmt → a.width = b.width →
    a.height = b.height → a.apart b → s.admitsPixels .read a → s.admitsPixels .write b →
    ∃ m, exec i s = .next (s.ended m) ∧
      (∀ y, y < b.height → ∀ x, x < b.width → ∀ j, j < b.fmt.bpp →
        m.read (b.pixAddr x y + j) = s.mem.read (a.pixAddr x y + j)) ∧
      ∀ n, ¬ b.isPixelByte n → m.read n = s.mem.read n

/-- A bilinear byte lies between the least of its four source bytes less one and the greatest of them (R163; the rule records
the bound as checked, not proved). -/
def Obligations.BilinearByteNearConvex : Prop :=
  ∀ (x y w h w' h' : Nat) (p1 p2 p3 p4 : Byte), 0 < w → w ≤ 65535 → 0 < h → h ≤ 65535 → x < w' → w' ≤ 65535 → y < h' →
    h' ≤ 65535 →
    let r := (bilinearByte (linearAxis x w w') (linearAxis y h h') p1 p2 p3 p4).toNat
    min (min p1.toNat p2.toNat) (min p3.toNat p4.toNat) ≤ r + 1 ∧
      r ≤ max (max p1.toNat p2.toNat) (max p3.toNat p4.toNat)

/-- Rounding gives a binary64 value, none is nearer, and of two equally near it takes the even one (00_scope.md R9; the
exponent has no upper end, since R9 says no infinity arises, log 12). -/
def Obligations.RoundingIsNearestEven : Prop :=
  ∀ q : ℚ, IsBinary64 (round64 q) ∧ (∀ r : ℚ, IsBinary64 r → |round64 q - q| ≤ |r - q|) ∧
    ∀ n : Int, q = ((n : ℚ) + 1 / 2) * ulp64 q → ∃ k : Int, round64 q = 2 * (k : ℚ) * ulp64 q

/-! ## Convolution (42_convolution.md) -/

/-- CONVOLVE gives every lane the value of R203, an alpha lane without PROC_ALPHA the source's, and changes no other byte and
no other state (R200, R201, R203, R204). -/
def Obligations.ConvolveFiltersLanes : Prop :=
  ∀ (s : State) (a b : Buffer) (k : Nat) (dynDiv procAlpha divAuto : Bool), s.mem.wf = true → s.breach = Breach.none →
    s.latched.src.names a → s.latched.dst.names b → a.width = b.width → a.height = b.height → a.fmt = b.fmt →
    a.apart b → k % 2 = 1 → 3 ≤ k → k ≤ 99 → s.latched.kernelBase.toNat + 4 * k * k ≤ 2 ^ 32 →
    (divAuto = false → s.latched.divisor ≠ 0) →
    (s.latched.kernelBase.toNat + 4 * k * k ≤ b.base ∨ b.limit ≤ s.latched.kernelBase.toNat) →
    (∀ n, n < 4 * k * k → memOK s.platform .read (s.latched.kernelBase.toNat + n) = true) →
    s.admitsPixels .read a → s.admitsPixels .write b →
    let wt := wordWeight s.mem s.latched.kernelBase.toNat k
    let cdiv := chosenDivisor k wt divAuto s.latched.divisor
    ∃ m, exec (.convolve k dynDiv procAlpha divAuto) s = .next (s.ended m) ∧
      (∀ y, y < b.height → ∀ x, x < b.width → ∀ l, l < b.fmt.nlanes →
        (b.laneRead m x y l : Int) =
          if b.fmt.isAlpha l = true ∧ procAlpha = false then (a.laneRead s.mem x y l : Int)
          else filteredLane a s.mem k wt cdiv s.latched.threshold.toInt dynDiv x y l) ∧
      ∀ n, ¬ b.isPixelByte n → m.read n = s.mem.read n

/-- No intermediate value of a convolution leaves a 64-bit two's-complement accumulator: each product, the running sum, the
running sum of in-bounds weights and the running sum of all weights after any number of cells, and the totals with the threshold
added, before the division and after it (R205). -/
def Obligations.ConvolutionFitsAccumulator : Prop :=
  ∀ (b : Buffer) (l : Operands) (k : Nat) (dynDiv procAlpha divAuto : Bool) (m : Memory) (x y lane : Nat), k ≤ 99 →
    let kern := memoryKernel l k dynDiv procAlpha divAuto m
    (∀ i j x' y', |kern.weight i j * (b.laneRead m x' y' lane : Int)| < 2 ^ 63) ∧
    (∀ n, let cells := (kernelCells k).take n
      let t := windowTotals b kern m x y lane cells
      |t.sum| ≤ 99 ^ 2 * 2 ^ 31 * 65535 ∧ |t.sum| < 2 ^ 63 ∧ |t.wsum| < 2 ^ 63 ∧
        |(cells.map fun c => kern.weight c.1 c.2).sum| < 2 ^ 63) ∧
    (99 ^ 2 * 2 ^ 31 * 65535 : Int) < 14 * 10 ^ 17 ∧ |weightTotal k kern.weight| < 2 ^ 63 ∧
    let t := windowSum b kern m x y lane
    |t.sum| ≤ 99 ^ 2 * 2 ^ 31 * 65535 ∧ |t.sum| < 2 ^ 63 ∧ |t.wsum| < 2 ^ 63 ∧ |t.sum + kern.threshold| < 2 ^ 63 ∧
      |normalise t.sum (windowDivisor kern t) + kern.threshold| < 2 ^ 63

/-- DYN_DIV makes a difference only where the window is clipped; an unclipped window uses the configured divisor whatever
DYN_DIV is (R206). -/
def Obligations.DynamicDivisorOnlyWhereClipped : Prop :=
  ∀ (b : Buffer) (k : Kernel) (m : Memory) (x y l : Nat),
    (convolveLane b { k with dynDiv := true } m x y l ≠ convolveLane b { k with dynDiv := false } m x y l →
      clippedWindow b k.size x y) ∧
    (¬ clippedWindow b k.size x y → windowDivisor k (windowSum b k m x y l) = k.divisor)

/-- On a uniform lane, the outputs with unclipped windows are equal; with the dynamic divisor, the default divisor, threshold
0 and no in-bounds weight sum of zero, every output equals the input (R207). -/
def Obligations.UniformImageConvolution : Prop :=
  ∀ (b : Buffer) (k : Kernel) (m : Memory) (l v : Nat),
    (∀ x, x < b.width → ∀ y, y < b.height → b.laneRead m x y l = v) →
    (∀ x y x' y', x < b.width → y < b.height → x' < b.width → y' < b.height →
      ¬ clippedWindow b k.size x y → ¬ clippedWindow b k.size x' y' →
      convolveLane b k m x y l = convolveLane b k m x' y' l) ∧
    (k.dynDiv = true → k.threshold = 0 → k.divisor = chosenDivisor k.size k.weight true 0 →
      (∀ x, x < b.width → ∀ y, y < b.height → cellWeights b k.size k.weight x y ≠ 0) →
      ∀ x, x < b.width → ∀ y, y < b.height → convolveLane b k m x y l = v)

/-! ## Blur detection (43_edge_detect.md) -/

/-- DETECT_BLUR fills the working buffer with the clamped Laplacian of every colour lane and the alpha lane unchanged, sets
MAX_GRADIENT to the greatest colour value, VALID to 1 and IS_BLURRED to whether it is below EDGE_THRESHOLD, and changes no
other byte and no other state (R230, R231, R232). -/
def Obligations.DetectBlurMeasuresGradient : Prop :=
  ∀ (s : State) (a b : Buffer), s.mem.wf = true → s.breach = Breach.none → s.latched.src.names a →
    s.latched.dst.names b → a.width = b.width → a.height = b.height → a.fmt = b.fmt → a.apart b →
    s.admitsPixels .read a → s.admitsPixels .write b →
    let wt (i j : Nat) : Int :=
      if i = 1 ∧ j = 1 then -4 else if (i = 1 ∧ (j = 0 ∨ j = 2)) ∨ (j = 1 ∧ (i = 0 ∨ i = 2)) then 1 else 0
    let out (x y l : Nat) : Int := filteredLane a s.mem 3 wt 1 0 false x y l
    ∃ (m : Memory) (g : Nat),
      exec .detectBlur s =
        .next { s with
          mem := m
          maxGradient := BitVec.ofNat 32 g
          blurValid := true
          isBlurred := decide (g < s.latched.edgeThreshold.toNat)
          engine := .idle
          done := true } ∧
      (∀ y, y < b.height → ∀ x, x < b.width → ∀ l, l < b.fmt.nlanes →
        (b.laneRead m x y l : Int) = if b.fmt.isAlpha l = true then (a.laneRead s.mem x y l : Int) else out x y l) ∧
      g ≤ b.fmt.lanemax ∧
      (∀ y, y < a.height → ∀ x, x < a.width → ∀ l, l < a.fmt.nlanes → a.fmt.isAlpha l = false → out x y l ≤ g) ∧
      (∃ y, y < a.height ∧ ∃ x, x < a.width ∧ ∃ l, l < a.fmt.nlanes ∧ a.fmt.isAlpha l = false ∧ out x y l = g) ∧
      ∀ n, ¬ b.isPixelByte n → m.read n = s.mem.read n

/-- On an image uniform in each colour lane every gradient is 0, and so is the maximum (R233). -/
def Obligations.UniformImageHasZeroGradient : Prop :=
  ∀ (b : Buffer) (m : Memory),
    (∀ l, l < b.fmt.nlanes → b.fmt.isAlpha l = false →
      ∃ v, ∀ x, x < b.width → ∀ y, y < b.height → b.laneRead m x y l = v) →
    (∀ x, x < b.width → ∀ y, y < b.height → ∀ l, l < b.fmt.nlanes → b.fmt.isAlpha l = false →
      convolveLane b laplacian m x y l = 0) ∧ maxGradientOf b m = 0

/-! ## Errors (60_exceptions.md) -/

/-- CLEAR's operand checks, in their order; each ends the command with no memory access (40_pixel_lanes.md R122). -/
def Obligations.ClearChecksOperands : Prop :=
  ∀ (s : State) (e : CmdError),
    firstError [(s.latched.dst.badFormat, .unsupportedFormat), (s.latched.dst.badShape, .sizeMismatch)] = some e →
    exec .clear s = .next (s.endedWith e)

/-- GET_PIXEL's and SET_PIXEL's operand checks, in their order (40_pixel_lanes.md R123, R124, R252). -/
def Obligations.PixelCommandsCheckOperands : Prop :=
  ∀ (s : State) (e : CmdError),
    let checks (d : Descriptor) : List (Bool × CmdError) :=
      [ (d.badFormat, .unsupportedFormat), (d.badShape, .sizeMismatch),
        (decide (bits d.size 15 0 ≤ bits s.latched.pixXY 15 0) || decide (bits d.size 31 16 ≤ bits s.latched.pixXY 31 16),
          .outOfRange) ]
    (firstError (checks s.latched.src) = some e → exec .getPixel s = .next (s.endedWith e)) ∧
      (firstError (checks s.latched.dst) = some e → exec .setPixel s = .next (s.endedWith e))

/-- COPY's and DETECT_BLUR's operand checks, in their order (40_pixel_lanes.md R126, 43_edge_detect.md R231). -/
def Obligations.CopyAndBlurCheckOperands : Prop :=
  ∀ (s : State) (e : CmdError) (i : Instr), (i = .copy ∨ i = .detectBlur) →
    firstError
      [ (s.latched.src.badFormat, .unsupportedFormat), (s.latched.dst.badFormat, .unsupportedFormat),
        (s.latched.src.badShape, .sizeMismatch), (s.latched.dst.badShape, .sizeMismatch),
        (decide (s.latched.src.size ≠ s.latched.dst.size) || decide (s.latched.src.fmt ≠ s.latched.dst.fmt),
          .sizeMismatch) ] = some e →
    exec i s = .next (s.endedWith e)

/-- RESAMPLE's operand checks, in their order; bicubic refuses a source format with 16-bit lanes, codes 1, 4 and 5
(41_resample.md R160, R166). -/
def Obligations.ResampleChecksOperands : Prop :=
  ∀ (s : State) (e : CmdError) (i : Instr), (i = .resampleNearest ∨ i = .resampleBilinear ∨ i = .resampleBicubic) →
    firstError
      [ (s.latched.src.badFormat, .unsupportedFormat), (s.latched.dst.badFormat, .unsupportedFormat),
        (decide (i = .resampleBicubic) && decide (s.latched.src.fmt.toNat ∈ [1, 4, 5]), .unsupportedFormat),
        (s.latched.src.badShape, .sizeMismatch), (s.latched.dst.badShape, .sizeMismatch),
        (decide (s.latched.src.fmt ≠ s.latched.dst.fmt), .sizeMismatch) ] = some e →
    exec i s = .next (s.endedWith e)

/-- CONVOLVE's operand checks, in R202's order, before any memory access (42_convolution.md R202). -/
def Obligations.ConvolveChecksOperands : Prop :=
  ∀ (s : State) (e : CmdError) (k : Nat) (dynDiv procAlpha divAuto : Bool),
    firstError
      [ (s.latched.src.badFormat, .unsupportedFormat), (s.latched.dst.badFormat, .unsupportedFormat),
        (decide (k % 2 = 0) || decide (k < 3) || decide (99 < k), .invalidKernel),
        (decide (2 ^ 32 < s.latched.kernelBase.toNat + 4 * k * k), .invalidKernel),
        (!divAuto && decide (s.latched.divisor = 0), .invalidDivisor),
        (s.latched.src.badShape, .sizeMismatch), (s.latched.dst.badShape, .sizeMismatch),
        (decide (s.latched.src.size ≠ s.latched.dst.size) || decide (s.latched.src.fmt ≠ s.latched.dst.fmt),
          .sizeMismatch) ] = some e →
    exec (.convolve k dynDiv procAlpha divAuto) s = .next (s.endedWith e)

/-- Once decoded, a command raises only the errors R261 marks for it. -/
def Obligations.CommandsRaiseOnlyTheirErrors : Prop :=
  ∀ (i : Instr) (s t : State) (e : CmdError), s.errCode = none → exec i s = .next t → t.errCode = some e →
    e ∈ allowedErrors i

/-- A command with a refused access ends with BUS_ERROR and the address of a refused access in ERR_INFO; its result
registers get no result, and every byte outside those it may change keeps its value; memory stays whole where the access
reported is a kernel byte (R254, R255, R257). For an overlapping command the bytes it may change are log 10's reading; that a
host's write to its source or kernel, or an overlap, leaves that last clause as it is, is the model's choice, logs 19 and 21. -/
def Obligations.RefusedAccessIsBusError : Prop :=
  ∀ (i : Instr) (s : State) (p : Plan), s.mem.wf = true → commandPlan i s.latched = .ok p →
    ((∃ a ∈ p.kernelReads ++ p.reads, memOK s.platform .read a = false) ∨
      ∃ a ∈ p.writes, memOK s.platform .write a = false) →
    ∃ (t : State) (a : Nat), exec i s = .next t ∧ t.errCode = some .busError ∧ t.errInfo = BitVec.ofNat 32 a ∧
      ((a ∈ p.kernelReads ∧ memOK s.platform .read a = false ∧ t.mem = s.mem) ∨
        (a ∈ p.reads ∧ memOK s.platform .read a = false) ∨ (a ∈ p.writes ∧ memOK s.platform .write a = false)) ∧
      t.err = true ∧ t.done = true ∧ t.engine = .idle ∧ t.operands = s.operands ∧ t.maxGradient = s.maxGradient ∧
      t.blurValid = s.blurValid ∧ t.isBlurred = s.isBlurred ∧ t.irqEn = s.irqEn ∧ t.ovr = s.ovr ∧
      ∀ b, b ∉ p.mayChange → t.mem.read b = s.mem.read b

/-- Where the refused accesses of a CONVOLVE are kernel bytes, it ends before any write: data memory is unchanged, and
ERR_INFO is the address of a refused kernel byte (R255, R257, 42_convolution.md R200). One free value is drawn, the model's
count (log 7); that neither a host's write to its source or kernel nor an overlap changes anything here is the model's choice,
logs 19 and 21. -/
def Obligations.RefusedKernelWordLeavesMemory : Prop :=
  ∀ (s : State) (k : Nat) (dynDiv procAlpha divAuto : Bool) (p : Plan) (n : Nat),
    commandPlan (.convolve k dynDiv procAlpha divAuto) s.latched = .ok p → n < 4 * k * k →
    memOK s.platform .read (s.latched.kernelBase.toNat + n) = false →
    (∀ a ∈ p.reads, memOK s.platform .read a = true) → (∀ a ∈ p.writes, memOK s.platform .write a = true) →
    ∃ j, j < 4 * k * k ∧ memOK s.platform .read (s.latched.kernelBase.toNat + j) = false ∧
      exec (.convolve k dynDiv procAlpha divAuto) s =
        .next { s with
          errCode := some .busError
          errInfo := BitVec.ofNat 32 (s.latched.kernelBase.toNat + j)
          err := true
          done := true
          engine := .idle
          draws := s.draws + 1 }

/-- Which registers a command's end can write: only GET_PIXEL writes PIX_B to PIX_A and no other operand register, only
DETECT_BLUR writes BLUR_RESULT and MAX_GRADIENT, and a command that raises writes none of them (10_state.md R48, R49). -/
def Obligations.ResultRegistersWrittenOnlyBySuccess : Prop :=
  ∀ (i : Instr) (s t : State), exec i s = .next t →
    (i ≠ .getPixel → t.operands = s.operands) ∧
    t.operands =
      { s.operands with
        pixB := t.operands.pixB, pixG := t.operands.pixG, pixR := t.operands.pixR, pixA := t.operands.pixA } ∧
    (i ≠ .detectBlur →
      t.blurValid = s.blurValid ∧ t.isBlurred = s.isBlurred ∧ t.maxGradient = s.maxGradient) ∧
    (s.errCode = none → t.errCode ≠ none →
      t.operands = s.operands ∧ t.blurValid = s.blurValid ∧ t.isBlurred = s.isBlurred ∧ t.maxGradient = s.maxGradient)

/-! ## What a command reads, writes and may change (20_memory.md) -/

/-- However a command ends, the bytes it may not change keep their values (R76, R78, 60_exceptions.md R255). For a command
whose destination overlaps its source or kernel, that the destination's padding outside the shared bytes is among them is the
model's reading of R78, log 10; that a kernel BUS_ERROR keeps memory after a host's write or in an overlap is its choice, logs 19 and 21. -/
def Obligations.CommandKeepsOtherBytes : Prop :=
  ∀ (i : Instr) (s t : State) (p : Plan), s.mem.wf = true → commandPlan i s.latched = .ok p →
    (∀ a ∈ s.breach.destWritten, a ∈ p.mayChange) → exec i s = .next t →
    ∀ a, a ∉ p.mayChange → t.mem.read a = s.mem.read a

/-- Every byte a command stores lies in its destination region, which lies in data memory, and, but for CLEAR and COPY, is a
byte of a pixel; RESAMPLE, CONVOLVE and DETECT_BLUR store every byte of every pixel (R69, R71, R76, 41_resample.md R168). -/
def Obligations.StoresStayInDestination : Prop :=
  ∀ (i : Instr) (l : Operands) (p : Plan), commandPlan i l = .ok p →
    (∀ a ∈ p.writes, ∃ b : Buffer, l.dst.names b ∧ b.base ≤ a ∧ a < b.limit ∧ b.limit ≤ 2 ^ 32 ∧
      (i ≠ .clear → i ≠ .copy → b.isPixelByte a)) ∧
    ∀ b : Buffer, l.dst.names b → hasTwoBuffers i = true → i ≠ .copy → ∀ a, b.isPixelByte a → a ∈ p.writes

/-- Every byte a command reads is a byte of a pixel of its source, for COPY a byte of the source region, or a byte of the
kernel words (R71, R76). -/
def Obligations.ReadsStayInSource : Prop :=
  ∀ (i : Instr) (l : Operands) (p : Plan), commandPlan i l = .ok p →
    (∀ a ∈ p.reads, ∃ b : Buffer, l.src.names b ∧
      if i = .copy then b.base ≤ a ∧ a < b.limit else b.isPixelByte a) ∧
    ∀ a ∈ p.kernelReads, ∃ k dynDiv procAlpha divAuto, i = .convolve k dynDiv procAlpha divAuto ∧
      l.kernelBase.toNat ≤ a ∧ a < l.kernelBase.toNat + 4 * k * k ∧ l.kernelBase.toNat + 4 * k * k ≤ 2 ^ 32

/-- A two-buffer command counts as overlapping exactly where its destination region shares a byte with its source region or,
for CONVOLVE, with the kernel words; the bytes it may change beside its stores are exactly those in both regions. No other
command overlaps (R78; that regions count with their padding is the model's reading, log 10). -/
def Obligations.OverlapIsSharedByte : Prop :=
  ∀ (i : Instr) (l : Operands) (p : Plan), commandPlan i l = .ok p →
    (hasTwoBuffers i = false → p.overlaps = false ∧ p.overlapped = []) ∧
    ∀ a b : Buffer, hasTwoBuffers i = true → l.src.names a → l.dst.names b →
      (p.overlaps = true ↔
        (∃ n, a.base ≤ n ∧ n < a.limit ∧ b.base ≤ n ∧ n < b.limit) ∨
        ∃ k dynDiv procAlpha divAuto n, i = .convolve k dynDiv procAlpha divAuto ∧ l.kernelBase.toNat ≤ n ∧
          n < l.kernelBase.toNat + 4 * k * k ∧ b.base ≤ n ∧ n < b.limit) ∧
      ∀ n, n ∈ p.overlapped ↔ a.base ≤ n ∧ n < a.limit ∧ b.base ≤ n ∧ n < b.limit

/-- A command with every access admitted still ends without an error where its destination overlaps its source or kernel, or
where the host wrote bytes of it while it ran (R77, R78, items I5 and I6). With an overlap or a written source byte, every byte
outside its stores and the overlap keeps its value, and MAX_GRADIENT is within [0, lanemax] with BLUR_RESULT following from it.
With written destination bytes alone, everything but those bytes is as without the host's writes. The model's reading are: the
end without an error, and the bound of MAX_GRADIENT with what follows from it (logs 10 and 11, which take 43_edge_detect.md R231
and R232 to hold there); that the destination's padding outside the overlap keeps its value (log 10); the record of the
breach (log 11) and the count of draws (log 7). -/
def Obligations.UnspecifiedOutputStillEnds : Prop :=
  ∀ (i : Instr) (s : State) (p : Plan), s.mem.wf = true → commandPlan i s.latched = .ok p →
    (∀ a ∈ p.kernelReads ++ p.reads, memOK s.platform .read a = true) →
    (∀ a ∈ p.writes, memOK s.platform .write a = true) →
    ∃ t, exec i s = .next t ∧ t.engine = .idle ∧ t.done = true ∧ t.err = s.err ∧ t.errCode = s.errCode ∧
      t.errInfo = s.errInfo ∧
      (p.overlaps = true ∨ s.breach.sourceWritten = true →
        (∀ a, a ∉ p.mayChange → t.mem.read a = s.mem.read a) ∧
        (i = .detectBlur → ∀ b : Buffer, s.latched.src.names b →
          t.maxGradient.toNat ≤ b.fmt.lanemax ∧ t.blurValid = true ∧
            t.isBlurred = decide (t.maxGradient.toNat < s.latched.edgeThreshold.toNat))) ∧
      (p.overlaps = false → s.breach.sourceWritten = false →
        ∃ u, exec i (s.withBreach Breach.none) = .next u ∧ t = { u with mem := t.mem, draws := t.draws } ∧
          ∀ a, a ∉ s.breach.destWritten → t.mem.read a = u.mem.read a)

/-! ## The register block (10_state.md) -/

/-- A read of a register returns its value and changes nothing (R20, 20_memory.md R73). -/
def Obligations.RegisterReadReturnsValue : Prop :=
  ∀ (s : State) (r : Reg) (rest : List Input), s.resetAsserted = false →
    s.inputs = .regRead (s.platform.regBase + r.offset) 4 :: rest →
    step s = .next { s with inputs := rest, outputs := s.outputs ++ [.word (s.readReg r)] }

/-- A read of a reserved offset returns 0 and a write to one is ignored, in any engine state (R23). -/
def Obligations.ReservedOffsetsIgnoreWrites : Prop :=
  ∀ (s : State) (v : Word) (rest : List Input), s.resetAsserted = false →
    ∀ o ∈ [0x014, 0x018, 0x01C, 0x06C, 0x070, 0x074, 0x078, 0x07C],
      (s.inputs = .regRead (s.platform.regBase + o) 4 :: rest →
        step s = .next { s with inputs := rest, outputs := s.outputs ++ [.word 0] }) ∧
      (s.inputs = .regWrite (s.platform.regBase + o) 4 v :: rest → step s = .next { s with inputs := rest })

/-- ID holds 0x4253 in bits 31:16 and 0x0007 in bits 15:0, and no bit is writable (R27). -/
def Obligations.IdIsConstant : Prop :=
  ∀ (s : State) (v : Word), bits (s.readReg .id) 31 16 = 0x4253 ∧ bits (s.readReg .id) 15 0 = 0x0007 ∧
    s.writeReg .id v = s

/-- While IDLE, a write to CMD or an operand register stores its low bits, the reserved ones reading 0, and leaves what every
other register reads and all other state unchanged (R21, R24, R41, R44). -/
def Obligations.OperandWriteReadsBack : Prop :=
  ∀ (s : State) (r : Reg) (v : Word) (rest : List Input), s.resetAsserted = false → s.engine = .idle →
    r.isOperand = true → s.inputs = .regWrite (s.platform.regBase + r.offset) 4 v :: rest →
    ∃ o, step s = .next { s with inputs := rest, operands := o } ∧
      (({ s with operands := o } : State).readReg r).toNat = v.toNat % 2 ^ r.storedBits ∧
      ∀ r', r' ≠ r → ({ s with operands := o } : State).readReg r' = s.readReg r'

/-- While BUSY, a write to CMD or an operand register is ignored and sets OVR; a write to a read-only register, BUSY or IDLE, is
ignored and leaves OVR alone (R21, R36, R46). -/
def Obligations.BusyWritesAreIgnored : Prop :=
  ∀ (s : State) (r : Reg) (v : Word) (rest : List Input), s.resetAsserted = false →
    s.inputs = .regWrite (s.platform.regBase + r.offset) 4 v :: rest →
    (s.busy = true → r.isOperand = true → step s = .next { s with inputs := rest, ovr := true }) ∧
    (r ∈ [.id, .errInfo, .blurResult, .maxGradient] → step s = .next { s with inputs := rest })

/-- A CTRL write without SOFT_RESET stores IRQ_EN; START is accepted while IDLE, with the registers latched, the status bits
and ERR_INFO cleared, and BLUR_RESULT cleared where CMD is exactly 0x00000007; while BUSY it only sets OVR; without START no
command starts (R29, R31, R45, R48). -/
def Obligations.ControlWriteStartsCommand : Prop :=
  ∀ (s : State) (v : Word) (rest : List Input), s.resetAsserted = false → bit v 1 = false →
    s.inputs = .regWrite (s.platform.regBase + 0x004) 4 v :: rest →
    step s =
      .next
        (if bit v 0 = true then
          (match s.engine with
          | .idle =>
              { s with
                inputs := rest
                irqEn := bit v 2
                engine := .busy s.operands { sourceWritten := false, destWritten := [] }
                done := false
                err := false
                errCode := none
                errInfo := 0
                blurValid := if s.operands.cmd = 0x00000007 then false else s.blurValid
                isBlurred := if s.operands.cmd = 0x00000007 then false else s.isBlurred }
          | .busy _ _ => { s with inputs := rest, irqEn := bit v 2, ovr := true })
        else { s with inputs := rest, irqEn := bit v 2 })

/-- A STATUS write clears exactly the W1C bits written 1, ERR_CODE with ERR, in any engine state (R32, R36, R37). -/
def Obligations.StatusWriteClearsBits : Prop :=
  ∀ (s : State) (v : Word) (rest : List Input), s.resetAsserted = false →
    s.inputs = .regWrite (s.platform.regBase + 0x008) 4 v :: rest →
    step s =
      .next { s with
        inputs := rest
        done := if bit v 1 then false else s.done
        err := if bit v 2 then false else s.err
        ovr := if bit v 3 then false else s.ovr
        errCode := if bit v 2 then none else s.errCode }

/-- STATUS shows BUSY, DONE, ERR, OVR in bits 0 to 3 and the error code in bits 11:8, every other bit 0; BUSY reads 1 exactly
when ENGINE is BUSY; CTRL shows IRQ_EN in bit 2, every other bit 0; BLUR_RESULT shows IS_BLURRED in bit 0 and VALID in bit 1,
every other bit 0; irq is IRQ_EN and DONE (R24, R28, R32, R33, R48, R53). -/
def Obligations.StatusShowsFlags : Prop :=
  ∀ s : State, (bit (s.readReg .status) 0 = true ↔ s.engine ≠ .idle) ∧ bit (s.readReg .status) 1 = s.done ∧
    bit (s.readReg .status) 2 = s.err ∧ bit (s.readReg .status) 3 = s.ovr ∧ bits (s.readReg .status) 7 4 = 0 ∧
    bits (s.readReg .status) 11 8 = errCodeValue s.errCode ∧ bits (s.readReg .status) 31 12 = 0 ∧
    bits (s.readReg .ctrl) 1 0 = 0 ∧ bit (s.readReg .ctrl) 2 = s.irqEn ∧ bits (s.readReg .ctrl) 31 3 = 0 ∧
    bit (s.readReg .blurResult) 0 = s.isBlurred ∧ bit (s.readReg .blurResult) 1 = s.blurValid ∧
    bits (s.readReg .blurResult) 31 2 = 0 ∧ s.irq = (bit (s.readReg .ctrl) 2 && bit (s.readReg .status) 1)

/-- OVR is sticky: only a STATUS write of 1 to it, or a reset, clears it; only an ignored write while BUSY sets it (R36). -/
def Obligations.OverrunIsSticky : Prop :=
  ∀ s t : State, step s = .next t →
    (s.ovr = true → t.ovr = false →
      ∃ rest, s.inputs = .resetAssert :: rest ∨
        (∃ v, s.inputs = .regWrite (s.platform.regBase + 0x008) 4 v :: rest ∧ bit v 3 = true) ∨
        ∃ v, s.inputs = .regWrite (s.platform.regBase + 0x004) 4 v :: rest ∧ bit v 1 = true) ∧
    (s.ovr = false → t.ovr = true →
      s.busy = true ∧ ∃ rest v,
        (s.inputs = .regWrite (s.platform.regBase + 0x004) 4 v :: rest ∧ bit v 0 = true ∧ bit v 1 = false) ∨
        ∃ r : Reg, r.isOperand = true ∧ s.inputs = .regWrite (s.platform.regBase + r.offset) 4 v :: rest)

/-- The engine leaves IDLE only by a CTRL write with START = 1 and SOFT_RESET = 0, and then holds the registers as they were
(R29, R45, 70_reset_and_hazards.md R292). -/
def Obligations.EngineStartsOnlyByStart : Prop :=
  ∀ s t : State, step s = .next t → s.engine = .idle → t.engine ≠ .idle →
    ∃ v rest, s.inputs = .regWrite (s.platform.regBase + 0x004) 4 v :: rest ∧ bit v 0 = true ∧ bit v 1 = false ∧
      t.engine = .busy s.operands Breach.none

/-- A poll whose condition holds is done; one whose condition does not hold stays, and the engine takes its turn
(30_encoding.md R103; the engine's turn between two reads is the model's choice, log 5). -/
def Obligations.PollRepeatsUntilMatch : Prop :=
  ∀ (s : State) (r : Reg) (mask value : Word) (rest : List Input), s.resetAsserted = false →
    s.inputs = .poll (s.platform.regBase + r.offset) mask value :: rest →
    step s = if s.readReg r &&& mask = value then .next { s with inputs := rest } else engineTurn s

/-- A register access that is not a defined one is refused, and so is any while the reset input is asserted (R22, items I3 and
I11). -/
def Obligations.UndefinedAccessIsRefused : Prop :=
  ∀ (s : State) (addr bytes : Nat) (data mask value : Word) (rest : List Input) (i : Input),
    (i = .regRead addr bytes ∨ i = .regWrite addr bytes data ∨ (i = .poll addr mask value ∧ bytes = 4)) →
    s.inputs = i :: rest → ¬ s.definedAccess addr bytes →
    step s = .refused (if s.resetAsserted then .accessDuringReset else .undefinedRegisterAccess)

/-! ## Reset (70_reset_and_hazards.md) -/

/-- After reset every register reads 0 but ID, the engine is IDLE and irq is 0 (10_state.md R52, R290). -/
def Obligations.ResetValues : Prop :=
  (∀ r : Reg, State.reset.readReg r = if r = .id then 0x42530007 else 0) ∧ State.reset.engine = .idle ∧
    State.reset.irq = false

/-- A soft reset and the hardware reset input both put every register at its reset value and the engine in IDLE, in that step,
leave every byte the aborted command may not change, and all of memory where no command was in progress (R290, R291, R293). The
release of the input changes nothing else, so from a state of the invariant every register then reads its reset value. That the
hardware reset takes place in the step in which its input is asserted, and that the registers hold their reset values until its
release, is the model's choice, log 16; which bytes an overlapping command may change is its reading, logs 9 and 10. -/
def Obligations.ResetsClearRegisters : Prop :=
  ∀ (s : State) (rest : List Input),
    (s.mem.wf = true →
      (∃ v, s.resetAsserted = false ∧ bit v 1 = true ∧ s.inputs = .regWrite (s.platform.regBase + 0x004) 4 v :: rest) ∨
        s.inputs = .resetAssert :: rest →
      ∃ t, step s = .next t ∧ (∀ r : Reg, t.readReg r = State.reset.readReg r) ∧ t.engine = .idle ∧ t.irq = false ∧
        t.operands = Operands.reset ∧ t.platform = s.platform ∧ t.inputs = rest ∧ t.outputs = s.outputs ∧
        (t.resetAsserted = true ↔ s.resetAsserted = true ∨ s.inputs = .resetAssert :: rest) ∧
        (∀ a, a ∉ s.mayChange → t.mem.read a = s.mem.read a) ∧ (s.engine = .idle → t.mem = s.mem)) ∧
    (s.inputs = .resetRelease :: rest →
      step s = .next { s with inputs := rest, resetAsserted := false } ∧
      (s.Inv → s.resetAsserted = true →
        (∀ r : Reg, ({ s with inputs := rest, resetAsserted := false } : State).readReg r = State.reset.readReg r) ∧
          s.engine = .idle))

/-- The invariant holds at reset; its clauses on the reset input and on the record of breaches are the model's choice, logs 16
and 11. -/
def Obligations.ResetMeetsInvariant : Prop := State.Inv State.reset

/-- Every step keeps the invariant: memory canonical and in the address space, ERR with its code, no end flags while BUSY,
BLUR_RESULT 0 or VALID, ERR_INFO 0 but for BUS_ERROR (20_memory.md R61, 10_state.md R35, R37, R39, R45, R48). Two clauses are
the model's choice: the registers hold their reset values while the reset input is asserted (log 16), and the record of the
host's breaches names bytes that exist (log 11). -/
def Obligations.StepKeepsInvariant : Prop := ∀ s t : State, s.Inv → step s = .next t → t.Inv

/-- No step changes the platform's parameters, and what reads have returned stays returned (00_scope.md R6;
both are the model's way to hold them, logs 3 and 5). -/
def Obligations.StepKeepsPlatform : Prop :=
  ∀ s t : State, step s = .next t → t.platform = s.platform ∧ s.outputs <+: t.outputs

/-! ## The host and data memory (20_memory.md) -/

/-- While no command is in progress, the host reads and writes bytes of data memory as they are; an address of 2^32 or more
does not exist and faults (R61, R77, 00_scope.md R14). The fault is the model's choice, log 13, and so is that these accesses go
on in the same way while the reset input is asserted, log 16. -/
def Obligations.HostMemoryAccessWhileIdle : Prop :=
  ∀ (s : State) (a : Nat) (v : Byte) (rest : List Input), s.mem.wf = true → s.engine = .idle →
    (s.inputs = .memRead a :: rest → a < 2 ^ 32 →
      step s = .next { s with inputs := rest, outputs := s.outputs ++ [.byte (s.mem.read a)] }) ∧
    (s.inputs = .memWrite a v :: rest → a < 2 ^ 32 →
      ∃ m, step s = .next { s with inputs := rest, mem := m } ∧
        ∀ b, m.read b = if b = a then v else s.mem.read b) ∧
    ((s.inputs = .memRead a :: rest ∨ s.inputs = .memWrite a v :: rest) → 2 ^ 32 ≤ a →
      step s = .fault .noSuchMemoryAddress)

/-- While a command is in progress, a host write outside the bytes the command may change takes effect, and one to a byte the
command reads is recorded as a breach; a host write to a byte it may change leaves every other byte alone and is recorded; a
host read changes no memory, and of a byte the command neither reads nor may change it returns that byte (R77,
70_reset_and_hazards.md R299, item I5). The record, and that a written source byte holds the host's value, are the model's
choice, log 11. -/
def Obligations.HostMemoryAccessWhileBusy : Prop :=
  ∀ (s : State) (l : Operands) (br : Breach) (a : Nat) (v : Byte) (rest : List Input), s.mem.wf = true →
    s.engine = .busy l br → a < 2 ^ 32 →
    (s.inputs = .memWrite a v :: rest →
      ∃ t, step s = .next t ∧ (∀ b, b ≠ a → t.mem.read b = s.mem.read b) ∧
        (a ∉ s.mayChange → t.mem.read a = v) ∧
        t.engine =
          .busy l
            { sourceWritten := br.sourceWritten || decide (a ∈ s.mayRead)
              destWritten := if a ∈ s.mayChange then a :: br.destWritten else br.destWritten } ∧
        t.operands = s.operands ∧ t.inputs = rest ∧ t.outputs = s.outputs) ∧
    (s.inputs = .memRead a :: rest →
      ∃ t o, step s = .next t ∧ t.mem = s.mem ∧ t.engine = s.engine ∧ t.operands = s.operands ∧ t.inputs = rest ∧
        t.outputs = s.outputs ++ [.byte o] ∧ (a ∉ s.mayRead → a ∉ s.mayChange → o = s.mem.read a))
end

