-- ==== Sys2Proof/Laws/Memory.lean ====
section
/-! SUPPORT. The laws of the data memory: a read after a write, and the canonical form, which every operation keeps. -/

namespace Sys2Proof.Machine

/-- Every address of a memory lies above a bound. -/
theorem Memory.read_of_all_gt (m : Memory) (a : Nat) (h : ∀ c ∈ m, a < c.1) : m.read a = Memory.blank := by
  induction m with
  | nil => rfl
  | cons c rest ih =>
    obtain ⟨b, w⟩ := c
    have hb : a < b := h (b, w) (by simp)
    rw [Memory.read, if_neg (by omega)]
    exact ih fun c hc => h c (by simp [hc])

theorem Memory.wf_iff (m : Memory) :
    m.wf = true ↔ m.Pairwise (fun c d => c.1 < d.1) ∧ ∀ c ∈ m, c.2 ≠ Memory.blank := by
  simp [Memory.wf]

theorem Memory.inSpace_iff (m : Memory) : m.inSpace = true ↔ ∀ c ∈ m, c.1 < Config.memorySize := by
  simp [Memory.inSpace]

@[simp] theorem Memory.wf_nil : Memory.wf [] = true := rfl

@[simp] theorem Memory.inSpace_nil : Memory.inSpace [] = true := rfl

/-- Where a written entry can come from. -/
theorem Memory.mem_write (m : Memory) (a : Nat) (v : Byte) (c : Host.Cell) (h : c ∈ m.write a v) :
    c ∈ m ∨ (c = (a, v) ∧ v ≠ Memory.blank) := by
  induction m with
  | nil =>
    simp only [Memory.write, Memory.cons] at h
    split at h <;> simp_all
  | cons d rest ih =>
    obtain ⟨b, w⟩ := d
    simp only [Memory.write, Memory.cons] at h
    split at h
    · split at h <;> simp_all
      tauto
    · split at h
      · split at h <;> simp_all
        tauto
      · rcases List.mem_cons.1 h with h | h
        · simp [h]
        · rcases ih h with h | h <;> simp [h]

/-- A write keeps the canonical form. -/
theorem Memory.write_wf (m : Memory) (a : Nat) (v : Byte) (h : m.wf = true) : (m.write a v).wf = true := by
  rw [Memory.wf_iff] at h ⊢
  obtain ⟨hs, hb⟩ := h
  refine ⟨?_, fun c hc => ?_⟩
  · clear hb
    induction m with
    | nil =>
      simp only [Memory.write, Memory.cons]
      split <;> simp
    | cons d rest ih =>
      obtain ⟨b, w⟩ := d
      obtain ⟨hd, hr⟩ := List.pairwise_cons.1 hs
      simp only [Memory.write, Memory.cons]
      split
      · split
        · exact hs
        · refine List.pairwise_cons.2 ⟨fun c hc => ?_, hs⟩
          rcases List.mem_cons.1 hc with rfl | hc
          · assumption
          · have := hd c hc
            simp only at this ⊢
            omega
      · split
        · split
          · exact hr
          · refine List.pairwise_cons.2 ⟨fun c hc => ?_, hr⟩
            have := hd c hc
            simp only at this ⊢
            omega
        · refine List.pairwise_cons.2 ⟨fun c hc => ?_, ih hr⟩
          rcases Memory.mem_write rest a v c hc with hc | ⟨rfl, -⟩
          · exact hd c hc
          · simp only
            omega
  · rcases Memory.mem_write m a v c hc with hc | ⟨rfl, hv⟩
    · exact hb c hc
    · exact hv

/-- A write to an address that exists lists no address that does not. -/
theorem Memory.write_inSpace (m : Memory) (a : Nat) (v : Byte) (h : m.inSpace = true) (ha : a < Config.memorySize) :
    (m.write a v).inSpace = true := by
  rw [Memory.inSpace_iff] at h ⊢
  intro c hc
  rcases Memory.mem_write m a v c hc with hc | ⟨rfl, -⟩
  · exact h c hc
  · exact ha

/-- What a write does to every read, on a memory in canonical form. -/
theorem Memory.read_write (m : Memory) (a b : Nat) (v : Byte) (h : m.wf = true) :
    (m.write a v).read b = if b = a then v else m.read b := by
  obtain ⟨hs, -⟩ := (Memory.wf_iff m).1 h
  clear h
  induction m with
  | nil =>
    simp only [Memory.write, Memory.cons]
    split <;> simp_all [Memory.read]
  | cons d rest ih =>
    obtain ⟨e, w⟩ := d
    obtain ⟨hd, hr⟩ := List.pairwise_cons.1 hs
    have above : ∀ x, x ≤ e → Memory.read rest x = Memory.blank := fun x hx =>
      Memory.read_of_all_gt rest x fun c hc => Nat.lt_of_le_of_lt hx (hd c hc)
    simp only [Memory.write, Memory.cons]
    by_cases h1 : a < e
    · rw [if_pos h1]
      by_cases hv : v = Memory.blank
      · rw [if_pos hv]
        by_cases hb : b = a
        · subst hb
          rw [if_pos rfl, hv, Memory.read, if_neg (by omega)]
          exact above b (by omega)
        · rw [if_neg hb]
      · rw [if_neg hv, Memory.read]
    · rw [if_neg h1]
      by_cases h2 : a = e
      · subst h2
        rw [if_pos rfl]
        by_cases hv : v = Memory.blank
        · rw [if_pos hv]
          by_cases hb : b = a
          · subst hb
            rw [if_pos rfl, hv]
            exact above b (Nat.le_refl _)
          · rw [if_neg hb, Memory.read, if_neg hb]
        · rw [if_neg hv, Memory.read, Memory.read]
          split <;> rfl
      · rw [if_neg h2, Memory.read, Memory.read, ih hr]
        by_cases hb : b = e
        · subst hb
          rw [if_pos rfl, if_neg (fun h => h2 h.symm), if_pos rfl]
        · rw [if_neg hb, if_neg hb]

/-- Writing a list of bytes keeps the canonical form. -/
theorem Memory.writeAll_wf (m : Memory) (cs : List Host.Cell) (h : m.wf = true) : (m.writeAll cs).wf = true := by
  induction cs generalizing m with
  | nil => exact h
  | cons c rest ih => exact ih _ (Memory.write_wf m c.1 c.2 h)

theorem Memory.writeAll_inSpace (m : Memory) (cs : List Host.Cell) (h : m.inSpace = true)
    (hc : ∀ c ∈ cs, c.1 < Config.memorySize) : (m.writeAll cs).inSpace = true := by
  induction cs generalizing m with
  | nil => exact h
  | cons c rest ih =>
    exact ih _ (Memory.write_inSpace m c.1 c.2 h (hc c (by simp))) fun d hd => hc d (by simp [hd])

/-- An address that is not written reads as before. -/
theorem Memory.read_writeAll_of_not_mem (m : Memory) (cs : List Host.Cell) (a : Nat) (h : m.wf = true)
    (ha : ∀ c ∈ cs, c.1 ≠ a) : (m.writeAll cs).read a = m.read a := by
  induction cs generalizing m with
  | nil => rfl
  | cons c rest ih =>
    show ((m.write c.1 c.2).writeAll rest).read a = m.read a
    rw [ih _ (Memory.write_wf m c.1 c.2 h) fun d hd => ha d (by simp [hd]), Memory.read_write m _ _ _ h,
      if_neg fun e => ha c (by simp) e.symm]

/-- Where no address is written twice, each reads as the byte written to it. -/
theorem Memory.read_writeAll_of_mem (m : Memory) (cs : List Host.Cell) (c : Host.Cell) (h : m.wf = true)
    (hn : (cs.map Prod.fst).Nodup) (hc : c ∈ cs) : (m.writeAll cs).read c.1 = c.2 := by
  induction cs generalizing m with
  | nil => cases hc
  | cons d rest ih =>
    obtain ⟨hd, hr⟩ := List.nodup_cons.1 hn
    show ((m.write d.1 d.2).writeAll rest).read c.1 = c.2
    rcases List.mem_cons.1 hc with rfl | hc
    · rw [Memory.read_writeAll_of_not_mem _ _ _ (Memory.write_wf m _ _ h), Memory.read_write m _ _ _ h, if_pos rfl]
      intro e he hec
      exact hd (List.mem_map.2 ⟨e, he, hec⟩)
    · exact ih _ (Memory.write_wf m _ _ h) hr hc

theorem Memory.scramble_wf (m : Memory) (n : Nat) (as : List Nat) (h : m.wf = true) : (m.scramble n as).wf = true :=
  Memory.writeAll_wf m _ h

theorem Memory.scramble_inSpace (m : Memory) (n : Nat) (as : List Nat) (h : m.inSpace = true)
    (ha : ∀ a ∈ as, a < Config.memorySize) : (m.scramble n as).inSpace = true := by
  refine Memory.writeAll_inSpace m _ h fun c hc => ?_
  obtain ⟨a, hm, rfl⟩ := List.mem_map.1 hc
  exact ha a hm

/-- A byte outside those left unspecified keeps its value. -/
theorem Memory.read_scramble_of_not_mem (m : Memory) (n : Nat) (as : List Nat) (a : Nat) (h : m.wf = true)
    (ha : a ∉ as) : (m.scramble n as).read a = m.read a := by
  refine Memory.read_writeAll_of_not_mem m _ a h fun c hc he => ?_
  obtain ⟨b, hb, rfl⟩ := List.mem_map.1 hc
  exact ha (he ▸ hb)

/-- A little-endian read of n bytes is below 256^n. -/
theorem Memory.readLE_lt (m : Memory) (a n : Nat) : m.readLE a n < 256 ^ n := by
  induction n generalizing a with
  | zero => simp [Memory.readLE]
  | succ n ih =>
    have := ih (a + 1)
    have hb := (m.read a).isLt
    rw [Memory.readLE, Nat.pow_succ]
    omega

/-- Two memories that agree on the n bytes from a on read the same there. -/
theorem Memory.readLE_congr (m m' : Memory) (a n : Nat) (h : ∀ i, i < n → m.read (a + i) = m'.read (a + i)) :
    m.readLE a n = m'.readLE a n := by
  induction n generalizing a with
  | zero => rfl
  | succ n ih =>
    have h0 := h 0 (by omega)
    simp only [Nat.add_zero] at h0
    rw [Memory.readLE, Memory.readLE, h0, ih (a + 1) fun i hi => by
      have := h (i + 1) (by omega)
      rwa [show a + 1 + i = a + (i + 1) by omega]]

/-- The admitted addresses are those the platform does not refuse. -/
theorem refusedAmong_eq_nil (p : Platform) (k : AccessKind) (as : List Nat) :
    refusedAmong p k as = [] ↔ ∀ a ∈ as, memOK p k a = true := by
  simp [refusedAmong, List.filter_eq_nil_iff]

theorem mem_refusedAmong (p : Platform) (k : AccessKind) (as : List Nat) (a : Nat) :
    a ∈ refusedAmong p k as ↔ a ∈ as ∧ memOK p k a = false := by
  simp [refusedAmong]

end Sys2Proof.Machine
end

