-- ==== Sys2Proof/Laws/Operands.lean ====
section
/-! SUPPORT. The laws of formats, descriptors and pixel addresses. -/

namespace Sys2Proof.Machine

theorem Format.bpp_pos (f : Format) : 0 < f.bpp := by cases f <;> decide

theorem Format.laneBytes_pos (f : Format) : 0 < f.laneBytes := by cases f <;> decide

/-- The lanes of a pixel fill it (20_memory.md R63). -/
theorem Format.nlanes_mul_laneBytes (f : Format) : f.nlanes * f.laneBytes = f.bpp := by cases f <;> rfl

theorem Format.lanemax_add_one (f : Format) : f.lanemax + 1 = 256 ^ f.laneBytes := by cases f <;> rfl

/-- Every byte of a lane lies in its pixel. -/
theorem Format.laneoff_add_lt (f : Format) (l k : Nat) (hl : l < f.nlanes) (hk : k < f.laneBytes) :
    f.laneoff l + k < f.bpp := by
  have h := f.nlanes_mul_laneBytes
  have h1 : (l + 1) * f.laneBytes ≤ f.nlanes * f.laneBytes := Nat.mul_le_mul_right _ hl
  rw [Nat.succ_mul] at h1
  unfold Format.laneoff
  omega

theorem checkFmt_eq_ok (d : Descriptor) (f : Format) : checkFmt d = .ok f ↔ Format.ofCode d.fmt = some f := by
  unfold checkFmt
  split <;> simp_all

theorem checkFmt_eq_error (d : Descriptor) (e : CmdError) :
    checkFmt d = .error e ↔ Format.ofCode d.fmt = none ∧ e = .unsupportedFormat := by
  unfold checkFmt
  cases h : Format.ofCode d.fmt <;> simp [eq_comm]

/-- What a passed shape check says (20_memory.md R69). -/
theorem checkShape_eq_ok (d : Descriptor) (f : Format) (b : Buffer) (h : checkShape d f = .ok b) :
    b = { base := d.base.toNat, width := d.width, height := d.height, stride := d.stride.toNat, fmt := f } ∧
      0 < b.width ∧ 0 < b.height ∧ b.width * b.fmt.bpp ≤ b.stride ∧ b.limit ≤ Config.memorySize := by
  unfold checkShape at h
  simp only at h
  split at h
  · cases h
  · split at h
    · cases h
    · split at h
      · cases h
      · cases h
        refine ⟨rfl, ?_, ?_, ?_, ?_⟩ <;> simp_all <;> omega

/-- A failed shape check raises SIZE_MISMATCH (20_memory.md R69). -/
theorem checkShape_eq_error (d : Descriptor) (f : Format) (e : CmdError) (h : checkShape d f = .error e) :
    e = .sizeMismatch := by
  unfold checkShape at h
  simp only at h
  repeat' split at h
  all_goals simp_all

theorem raiseIf_eq_ok (c : Bool) (e : CmdError) (u : Unit) : raiseIf c e = .ok u ↔ c = false := by
  unfold raiseIf
  split <;> simp_all

theorem raiseIf_eq_error (c : Bool) (e e' : CmdError) : raiseIf c e = .error e' ↔ c = true ∧ e = e' := by
  unfold raiseIf
  split <;> simp_all

theorem Buffer.mem_pixels (b : Buffer) (p : Nat × Nat) : p ∈ b.pixels ↔ p.1 < b.width ∧ p.2 < b.height := by
  obtain ⟨x, y⟩ := p
  simp [Buffer.pixels, and_comm]

/-- A byte of a pixel lies in its row. -/
theorem Buffer.offset_lt_stride (b : Buffer) (x i : Nat) (hs : b.width * b.fmt.bpp ≤ b.stride) (hx : x < b.width)
    (hi : i < b.fmt.bpp) : x * b.fmt.bpp + i < b.stride := by
  have h1 : (x + 1) * b.fmt.bpp ≤ b.width * b.fmt.bpp := Nat.mul_le_mul_right _ hx
  rw [Nat.succ_mul] at h1
  omega

/-- A pixel's bytes lie in the buffer's region (20_memory.md R66, R69). -/
theorem Buffer.pixAddr_add_lt_limit (b : Buffer) (x y i : Nat) (hs : b.width * b.fmt.bpp ≤ b.stride)
    (hx : x < b.width) (hy : y < b.height) (hi : i < b.fmt.bpp) :
    b.base ≤ b.pixAddr x y + i ∧ b.pixAddr x y + i < b.limit := by
  have h1 := b.offset_lt_stride x i hs hx hi
  have h2 : (y + 1) * b.stride ≤ b.height * b.stride := Nat.mul_le_mul_right _ hy
  rw [Nat.succ_mul] at h2
  unfold Buffer.pixAddr Buffer.limit
  rw [Nat.mul_comm b.stride b.height]
  omega

/-- Different pixel bytes have different addresses. -/
theorem Buffer.pixAddr_add_inj (b : Buffer) (x y i x' y' i' : Nat) (hs : b.width * b.fmt.bpp ≤ b.stride)
    (hx : x < b.width) (hi : i < b.fmt.bpp) (hx' : x' < b.width) (hi' : i' < b.fmt.bpp)
    (h : b.pixAddr x y + i = b.pixAddr x' y' + i') : x = x' ∧ y = y' ∧ i = i' := by
  have h1 := b.offset_lt_stride x i hs hx hi
  have h2 := b.offset_lt_stride x' i' hs hx' hi'
  unfold Buffer.pixAddr at h
  have hy : y = y' := by
    rcases Nat.lt_trichotomy y y' with hlt | rfl | hlt
    · have := Nat.mul_le_mul_right b.stride (show y + 1 ≤ y' from hlt)
      rw [Nat.succ_mul] at this
      omega
    · rfl
    · have := Nat.mul_le_mul_right b.stride (show y' + 1 ≤ y from hlt)
      rw [Nat.succ_mul] at this
      omega
  subst hy
  have hxx : x = x' := by
    rcases Nat.lt_trichotomy x x' with hlt | rfl | hlt
    · have := Nat.mul_le_mul_right b.fmt.bpp (show x + 1 ≤ x' from hlt)
      rw [Nat.succ_mul] at this
      omega
    · rfl
    · have := Nat.mul_le_mul_right b.fmt.bpp (show x' + 1 ≤ x from hlt)
      rw [Nat.succ_mul] at this
      omega
  subst hxx
  exact ⟨rfl, rfl, by omega⟩

/-- A lane read is a lane value (20_memory.md R67). -/
theorem Buffer.laneRead_le_lanemax (b : Buffer) (m : Memory) (x y l : Nat) : b.laneRead m x y l ≤ b.fmt.lanemax := by
  have h := Memory.readLE_lt m (b.laneAddr x y l) b.fmt.laneBytes
  have h1 := b.fmt.lanemax_add_one
  unfold Buffer.laneRead
  omega

/-- The bytes two regions share lie in both. -/
theorem Buffer.mem_overlap (a b : Buffer) (n : Nat) (h : n ∈ a.overlap b) :
    (a.base ≤ n ∧ n < a.limit) ∧ (b.base ≤ n ∧ n < b.limit) := by
  unfold Buffer.overlap at h
  rw [List.mem_range'_1] at h
  omega

theorem Buffer.overlap_eq_nil (a b : Buffer) (h : a.limit ≤ b.base ∨ b.limit ≤ a.base) : a.overlap b = [] := by
  have : min a.limit b.limit - max a.base b.base = 0 := by omega
  simp [Buffer.overlap, this]

end Sys2Proof.Machine
end

