-- ==== Sys2Proof/Laws/State.lean ====
section
/-! SUPPORT. What each update of the state does to each field, one lemma per field per update. -/

namespace Sys2Proof.Machine

@[simp] theorem State.accept_operands (s : State) :
    (s.accept).operands = s.operands := rfl
@[simp] theorem State.accept_irqEn (s : State) :
    (s.accept).irqEn = s.irqEn := rfl
@[simp] theorem State.accept_done (s : State) :
    (s.accept).done = false := rfl
@[simp] theorem State.accept_err (s : State) :
    (s.accept).err = false := rfl
@[simp] theorem State.accept_ovr (s : State) :
    (s.accept).ovr = s.ovr := rfl
@[simp] theorem State.accept_errCode (s : State) :
    (s.accept).errCode = none := rfl
@[simp] theorem State.accept_errInfo (s : State) :
    (s.accept).errInfo = 0 := rfl
@[simp] theorem State.accept_blurValid (s : State) :
    (s.accept).blurValid = if s.operands.cmd = 0x00000007 then false else s.blurValid := rfl
@[simp] theorem State.accept_isBlurred (s : State) :
    (s.accept).isBlurred = if s.operands.cmd = 0x00000007 then false else s.isBlurred := rfl
@[simp] theorem State.accept_maxGradient (s : State) :
    (s.accept).maxGradient = s.maxGradient := rfl
@[simp] theorem State.accept_engine (s : State) :
    (s.accept).engine = .busy s.operands Breach.none := rfl
@[simp] theorem State.accept_resetAsserted (s : State) :
    (s.accept).resetAsserted = s.resetAsserted := rfl
@[simp] theorem State.accept_mem (s : State) :
    (s.accept).mem = s.mem := rfl
@[simp] theorem State.accept_platform (s : State) :
    (s.accept).platform = s.platform := rfl
@[simp] theorem State.accept_draws (s : State) :
    (s.accept).draws = s.draws := rfl
@[simp] theorem State.accept_inputs (s : State) :
    (s.accept).inputs = s.inputs := rfl
@[simp] theorem State.accept_outputs (s : State) :
    (s.accept).outputs = s.outputs := rfl

@[simp] theorem State.complete_operands (s : State) :
    (s.complete).operands = s.operands := rfl
@[simp] theorem State.complete_irqEn (s : State) :
    (s.complete).irqEn = s.irqEn := rfl
@[simp] theorem State.complete_done (s : State) :
    (s.complete).done = true := rfl
@[simp] theorem State.complete_err (s : State) :
    (s.complete).err = s.err := rfl
@[simp] theorem State.complete_ovr (s : State) :
    (s.complete).ovr = s.ovr := rfl
@[simp] theorem State.complete_errCode (s : State) :
    (s.complete).errCode = s.errCode := rfl
@[simp] theorem State.complete_errInfo (s : State) :
    (s.complete).errInfo = s.errInfo := rfl
@[simp] theorem State.complete_blurValid (s : State) :
    (s.complete).blurValid = s.blurValid := rfl
@[simp] theorem State.complete_isBlurred (s : State) :
    (s.complete).isBlurred = s.isBlurred := rfl
@[simp] theorem State.complete_maxGradient (s : State) :
    (s.complete).maxGradient = s.maxGradient := rfl
@[simp] theorem State.complete_engine (s : State) :
    (s.complete).engine = .idle := rfl
@[simp] theorem State.complete_resetAsserted (s : State) :
    (s.complete).resetAsserted = s.resetAsserted := rfl
@[simp] theorem State.complete_mem (s : State) :
    (s.complete).mem = s.mem := rfl
@[simp] theorem State.complete_platform (s : State) :
    (s.complete).platform = s.platform := rfl
@[simp] theorem State.complete_draws (s : State) :
    (s.complete).draws = s.draws := rfl
@[simp] theorem State.complete_inputs (s : State) :
    (s.complete).inputs = s.inputs := rfl
@[simp] theorem State.complete_outputs (s : State) :
    (s.complete).outputs = s.outputs := rfl

@[simp] theorem State.raise_operands (s : State) (e : CmdError) (info : Word) :
    (s.raise e info).operands = s.operands := rfl
@[simp] theorem State.raise_irqEn (s : State) (e : CmdError) (info : Word) :
    (s.raise e info).irqEn = s.irqEn := rfl
@[simp] theorem State.raise_done (s : State) (e : CmdError) (info : Word) :
    (s.raise e info).done = true := rfl
@[simp] theorem State.raise_err (s : State) (e : CmdError) (info : Word) :
    (s.raise e info).err = true := rfl
@[simp] theorem State.raise_ovr (s : State) (e : CmdError) (info : Word) :
    (s.raise e info).ovr = s.ovr := rfl
@[simp] theorem State.raise_errCode (s : State) (e : CmdError) (info : Word) :
    (s.raise e info).errCode = some e := rfl
@[simp] theorem State.raise_errInfo (s : State) (e : CmdError) (info : Word) :
    (s.raise e info).errInfo = info := rfl
@[simp] theorem State.raise_blurValid (s : State) (e : CmdError) (info : Word) :
    (s.raise e info).blurValid = s.blurValid := rfl
@[simp] theorem State.raise_isBlurred (s : State) (e : CmdError) (info : Word) :
    (s.raise e info).isBlurred = s.isBlurred := rfl
@[simp] theorem State.raise_maxGradient (s : State) (e : CmdError) (info : Word) :
    (s.raise e info).maxGradient = s.maxGradient := rfl
@[simp] theorem State.raise_engine (s : State) (e : CmdError) (info : Word) :
    (s.raise e info).engine = .idle := rfl
@[simp] theorem State.raise_resetAsserted (s : State) (e : CmdError) (info : Word) :
    (s.raise e info).resetAsserted = s.resetAsserted := rfl
@[simp] theorem State.raise_mem (s : State) (e : CmdError) (info : Word) :
    (s.raise e info).mem = s.mem := rfl
@[simp] theorem State.raise_platform (s : State) (e : CmdError) (info : Word) :
    (s.raise e info).platform = s.platform := rfl
@[simp] theorem State.raise_draws (s : State) (e : CmdError) (info : Word) :
    (s.raise e info).draws = s.draws := rfl
@[simp] theorem State.raise_inputs (s : State) (e : CmdError) (info : Word) :
    (s.raise e info).inputs = s.inputs := rfl
@[simp] theorem State.raise_outputs (s : State) (e : CmdError) (info : Word) :
    (s.raise e info).outputs = s.outputs := rfl

@[simp] theorem State.acknowledge_operands (s : State) (v : Word) :
    (s.acknowledge v).operands = s.operands := rfl
@[simp] theorem State.acknowledge_irqEn (s : State) (v : Word) :
    (s.acknowledge v).irqEn = s.irqEn := rfl
@[simp] theorem State.acknowledge_done (s : State) (v : Word) :
    (s.acknowledge v).done = (s.done && !bit v 1) := rfl
@[simp] theorem State.acknowledge_err (s : State) (v : Word) :
    (s.acknowledge v).err = (s.err && !bit v 2) := rfl
@[simp] theorem State.acknowledge_ovr (s : State) (v : Word) :
    (s.acknowledge v).ovr = (s.ovr && !bit v 3) := rfl
@[simp] theorem State.acknowledge_errCode (s : State) (v : Word) :
    (s.acknowledge v).errCode = if bit v 2 then none else s.errCode := rfl
@[simp] theorem State.acknowledge_errInfo (s : State) (v : Word) :
    (s.acknowledge v).errInfo = s.errInfo := rfl
@[simp] theorem State.acknowledge_blurValid (s : State) (v : Word) :
    (s.acknowledge v).blurValid = s.blurValid := rfl
@[simp] theorem State.acknowledge_isBlurred (s : State) (v : Word) :
    (s.acknowledge v).isBlurred = s.isBlurred := rfl
@[simp] theorem State.acknowledge_maxGradient (s : State) (v : Word) :
    (s.acknowledge v).maxGradient = s.maxGradient := rfl
@[simp] theorem State.acknowledge_engine (s : State) (v : Word) :
    (s.acknowledge v).engine = s.engine := rfl
@[simp] theorem State.acknowledge_resetAsserted (s : State) (v : Word) :
    (s.acknowledge v).resetAsserted = s.resetAsserted := rfl
@[simp] theorem State.acknowledge_mem (s : State) (v : Word) :
    (s.acknowledge v).mem = s.mem := rfl
@[simp] theorem State.acknowledge_platform (s : State) (v : Word) :
    (s.acknowledge v).platform = s.platform := rfl
@[simp] theorem State.acknowledge_draws (s : State) (v : Word) :
    (s.acknowledge v).draws = s.draws := rfl
@[simp] theorem State.acknowledge_inputs (s : State) (v : Word) :
    (s.acknowledge v).inputs = s.inputs := rfl
@[simp] theorem State.acknowledge_outputs (s : State) (v : Word) :
    (s.acknowledge v).outputs = s.outputs := rfl

@[simp] theorem State.clearRegisters_operands (s : State) :
    (s.clearRegisters).operands = Operands.reset := rfl
@[simp] theorem State.clearRegisters_irqEn (s : State) :
    (s.clearRegisters).irqEn = false := rfl
@[simp] theorem State.clearRegisters_done (s : State) :
    (s.clearRegisters).done = false := rfl
@[simp] theorem State.clearRegisters_err (s : State) :
    (s.clearRegisters).err = false := rfl
@[simp] theorem State.clearRegisters_ovr (s : State) :
    (s.clearRegisters).ovr = false := rfl
@[simp] theorem State.clearRegisters_errCode (s : State) :
    (s.clearRegisters).errCode = none := rfl
@[simp] theorem State.clearRegisters_errInfo (s : State) :
    (s.clearRegisters).errInfo = 0 := rfl
@[simp] theorem State.clearRegisters_blurValid (s : State) :
    (s.clearRegisters).blurValid = false := rfl
@[simp] theorem State.clearRegisters_isBlurred (s : State) :
    (s.clearRegisters).isBlurred = false := rfl
@[simp] theorem State.clearRegisters_maxGradient (s : State) :
    (s.clearRegisters).maxGradient = 0 := rfl
@[simp] theorem State.clearRegisters_engine (s : State) :
    (s.clearRegisters).engine = .idle := rfl
@[simp] theorem State.clearRegisters_resetAsserted (s : State) :
    (s.clearRegisters).resetAsserted = s.resetAsserted := rfl
@[simp] theorem State.clearRegisters_mem (s : State) :
    (s.clearRegisters).mem = s.mem := rfl
@[simp] theorem State.clearRegisters_platform (s : State) :
    (s.clearRegisters).platform = s.platform := rfl
@[simp] theorem State.clearRegisters_draws (s : State) :
    (s.clearRegisters).draws = s.draws := rfl
@[simp] theorem State.clearRegisters_inputs (s : State) :
    (s.clearRegisters).inputs = s.inputs := rfl
@[simp] theorem State.clearRegisters_outputs (s : State) :
    (s.clearRegisters).outputs = s.outputs := rfl

@[simp] theorem State.withMem_operands (s : State) (m : Memory) :
    (s.withMem m).operands = s.operands := rfl
@[simp] theorem State.withMem_irqEn (s : State) (m : Memory) :
    (s.withMem m).irqEn = s.irqEn := rfl
@[simp] theorem State.withMem_done (s : State) (m : Memory) :
    (s.withMem m).done = s.done := rfl
@[simp] theorem State.withMem_err (s : State) (m : Memory) :
    (s.withMem m).err = s.err := rfl
@[simp] theorem State.withMem_ovr (s : State) (m : Memory) :
    (s.withMem m).ovr = s.ovr := rfl
@[simp] theorem State.withMem_errCode (s : State) (m : Memory) :
    (s.withMem m).errCode = s.errCode := rfl
@[simp] theorem State.withMem_errInfo (s : State) (m : Memory) :
    (s.withMem m).errInfo = s.errInfo := rfl
@[simp] theorem State.withMem_blurValid (s : State) (m : Memory) :
    (s.withMem m).blurValid = s.blurValid := rfl
@[simp] theorem State.withMem_isBlurred (s : State) (m : Memory) :
    (s.withMem m).isBlurred = s.isBlurred := rfl
@[simp] theorem State.withMem_maxGradient (s : State) (m : Memory) :
    (s.withMem m).maxGradient = s.maxGradient := rfl
@[simp] theorem State.withMem_engine (s : State) (m : Memory) :
    (s.withMem m).engine = s.engine := rfl
@[simp] theorem State.withMem_resetAsserted (s : State) (m : Memory) :
    (s.withMem m).resetAsserted = s.resetAsserted := rfl
@[simp] theorem State.withMem_mem (s : State) (m : Memory) :
    (s.withMem m).mem = m := rfl
@[simp] theorem State.withMem_platform (s : State) (m : Memory) :
    (s.withMem m).platform = s.platform := rfl
@[simp] theorem State.withMem_draws (s : State) (m : Memory) :
    (s.withMem m).draws = s.draws := rfl
@[simp] theorem State.withMem_inputs (s : State) (m : Memory) :
    (s.withMem m).inputs = s.inputs := rfl
@[simp] theorem State.withMem_outputs (s : State) (m : Memory) :
    (s.withMem m).outputs = s.outputs := rfl

@[simp] theorem State.nextDraw_operands (s : State) :
    (s.nextDraw).operands = s.operands := rfl
@[simp] theorem State.nextDraw_irqEn (s : State) :
    (s.nextDraw).irqEn = s.irqEn := rfl
@[simp] theorem State.nextDraw_done (s : State) :
    (s.nextDraw).done = s.done := rfl
@[simp] theorem State.nextDraw_err (s : State) :
    (s.nextDraw).err = s.err := rfl
@[simp] theorem State.nextDraw_ovr (s : State) :
    (s.nextDraw).ovr = s.ovr := rfl
@[simp] theorem State.nextDraw_errCode (s : State) :
    (s.nextDraw).errCode = s.errCode := rfl
@[simp] theorem State.nextDraw_errInfo (s : State) :
    (s.nextDraw).errInfo = s.errInfo := rfl
@[simp] theorem State.nextDraw_blurValid (s : State) :
    (s.nextDraw).blurValid = s.blurValid := rfl
@[simp] theorem State.nextDraw_isBlurred (s : State) :
    (s.nextDraw).isBlurred = s.isBlurred := rfl
@[simp] theorem State.nextDraw_maxGradient (s : State) :
    (s.nextDraw).maxGradient = s.maxGradient := rfl
@[simp] theorem State.nextDraw_engine (s : State) :
    (s.nextDraw).engine = s.engine := rfl
@[simp] theorem State.nextDraw_resetAsserted (s : State) :
    (s.nextDraw).resetAsserted = s.resetAsserted := rfl
@[simp] theorem State.nextDraw_mem (s : State) :
    (s.nextDraw).mem = s.mem := rfl
@[simp] theorem State.nextDraw_platform (s : State) :
    (s.nextDraw).platform = s.platform := rfl
@[simp] theorem State.nextDraw_draws (s : State) :
    (s.nextDraw).draws = s.draws + 1 := rfl
@[simp] theorem State.nextDraw_inputs (s : State) :
    (s.nextDraw).inputs = s.inputs := rfl
@[simp] theorem State.nextDraw_outputs (s : State) :
    (s.nextDraw).outputs = s.outputs := rfl

@[simp] theorem State.unspecify_operands (s : State) (addrs : List Nat) :
    (s.unspecify addrs).operands = s.operands := rfl
@[simp] theorem State.unspecify_irqEn (s : State) (addrs : List Nat) :
    (s.unspecify addrs).irqEn = s.irqEn := rfl
@[simp] theorem State.unspecify_done (s : State) (addrs : List Nat) :
    (s.unspecify addrs).done = s.done := rfl
@[simp] theorem State.unspecify_err (s : State) (addrs : List Nat) :
    (s.unspecify addrs).err = s.err := rfl
@[simp] theorem State.unspecify_ovr (s : State) (addrs : List Nat) :
    (s.unspecify addrs).ovr = s.ovr := rfl
@[simp] theorem State.unspecify_errCode (s : State) (addrs : List Nat) :
    (s.unspecify addrs).errCode = s.errCode := rfl
@[simp] theorem State.unspecify_errInfo (s : State) (addrs : List Nat) :
    (s.unspecify addrs).errInfo = s.errInfo := rfl
@[simp] theorem State.unspecify_blurValid (s : State) (addrs : List Nat) :
    (s.unspecify addrs).blurValid = s.blurValid := rfl
@[simp] theorem State.unspecify_isBlurred (s : State) (addrs : List Nat) :
    (s.unspecify addrs).isBlurred = s.isBlurred := rfl
@[simp] theorem State.unspecify_maxGradient (s : State) (addrs : List Nat) :
    (s.unspecify addrs).maxGradient = s.maxGradient := rfl
@[simp] theorem State.unspecify_engine (s : State) (addrs : List Nat) :
    (s.unspecify addrs).engine = s.engine := rfl
@[simp] theorem State.unspecify_resetAsserted (s : State) (addrs : List Nat) :
    (s.unspecify addrs).resetAsserted = s.resetAsserted := rfl
@[simp] theorem State.unspecify_mem (s : State) (addrs : List Nat) :
    (s.unspecify addrs).mem = s.mem.scramble s.draws addrs := rfl
@[simp] theorem State.unspecify_platform (s : State) (addrs : List Nat) :
    (s.unspecify addrs).platform = s.platform := rfl
@[simp] theorem State.unspecify_draws (s : State) (addrs : List Nat) :
    (s.unspecify addrs).draws = s.draws + 1 := rfl
@[simp] theorem State.unspecify_inputs (s : State) (addrs : List Nat) :
    (s.unspecify addrs).inputs = s.inputs := rfl
@[simp] theorem State.unspecify_outputs (s : State) (addrs : List Nat) :
    (s.unspecify addrs).outputs = s.outputs := rfl

@[simp] theorem State.writePixel_operands (s : State) (p : Pixel) :
    (s.writePixel p).operands = { s.operands with pixB := p.b, pixG := p.g, pixR := p.r, pixA := p.a } := rfl
@[simp] theorem State.writePixel_irqEn (s : State) (p : Pixel) :
    (s.writePixel p).irqEn = s.irqEn := rfl
@[simp] theorem State.writePixel_done (s : State) (p : Pixel) :
    (s.writePixel p).done = s.done := rfl
@[simp] theorem State.writePixel_err (s : State) (p : Pixel) :
    (s.writePixel p).err = s.err := rfl
@[simp] theorem State.writePixel_ovr (s : State) (p : Pixel) :
    (s.writePixel p).ovr = s.ovr := rfl
@[simp] theorem State.writePixel_errCode (s : State) (p : Pixel) :
    (s.writePixel p).errCode = s.errCode := rfl
@[simp] theorem State.writePixel_errInfo (s : State) (p : Pixel) :
    (s.writePixel p).errInfo = s.errInfo := rfl
@[simp] theorem State.writePixel_blurValid (s : State) (p : Pixel) :
    (s.writePixel p).blurValid = s.blurValid := rfl
@[simp] theorem State.writePixel_isBlurred (s : State) (p : Pixel) :
    (s.writePixel p).isBlurred = s.isBlurred := rfl
@[simp] theorem State.writePixel_maxGradient (s : State) (p : Pixel) :
    (s.writePixel p).maxGradient = s.maxGradient := rfl
@[simp] theorem State.writePixel_engine (s : State) (p : Pixel) :
    (s.writePixel p).engine = s.engine := rfl
@[simp] theorem State.writePixel_resetAsserted (s : State) (p : Pixel) :
    (s.writePixel p).resetAsserted = s.resetAsserted := rfl
@[simp] theorem State.writePixel_mem (s : State) (p : Pixel) :
    (s.writePixel p).mem = s.mem := rfl
@[simp] theorem State.writePixel_platform (s : State) (p : Pixel) :
    (s.writePixel p).platform = s.platform := rfl
@[simp] theorem State.writePixel_draws (s : State) (p : Pixel) :
    (s.writePixel p).draws = s.draws := rfl
@[simp] theorem State.writePixel_inputs (s : State) (p : Pixel) :
    (s.writePixel p).inputs = s.inputs := rfl
@[simp] theorem State.writePixel_outputs (s : State) (p : Pixel) :
    (s.writePixel p).outputs = s.outputs := rfl

@[simp] theorem State.writeBlur_operands (s : State) (g t : Word) :
    (s.writeBlur g t).operands = s.operands := rfl
@[simp] theorem State.writeBlur_irqEn (s : State) (g t : Word) :
    (s.writeBlur g t).irqEn = s.irqEn := rfl
@[simp] theorem State.writeBlur_done (s : State) (g t : Word) :
    (s.writeBlur g t).done = s.done := rfl
@[simp] theorem State.writeBlur_err (s : State) (g t : Word) :
    (s.writeBlur g t).err = s.err := rfl
@[simp] theorem State.writeBlur_ovr (s : State) (g t : Word) :
    (s.writeBlur g t).ovr = s.ovr := rfl
@[simp] theorem State.writeBlur_errCode (s : State) (g t : Word) :
    (s.writeBlur g t).errCode = s.errCode := rfl
@[simp] theorem State.writeBlur_errInfo (s : State) (g t : Word) :
    (s.writeBlur g t).errInfo = s.errInfo := rfl
@[simp] theorem State.writeBlur_blurValid (s : State) (g t : Word) :
    (s.writeBlur g t).blurValid = true := rfl
@[simp] theorem State.writeBlur_isBlurred (s : State) (g t : Word) :
    (s.writeBlur g t).isBlurred = isBlurredFlag g.toNat t := rfl
@[simp] theorem State.writeBlur_maxGradient (s : State) (g t : Word) :
    (s.writeBlur g t).maxGradient = g := rfl
@[simp] theorem State.writeBlur_engine (s : State) (g t : Word) :
    (s.writeBlur g t).engine = s.engine := rfl
@[simp] theorem State.writeBlur_resetAsserted (s : State) (g t : Word) :
    (s.writeBlur g t).resetAsserted = s.resetAsserted := rfl
@[simp] theorem State.writeBlur_mem (s : State) (g t : Word) :
    (s.writeBlur g t).mem = s.mem := rfl
@[simp] theorem State.writeBlur_platform (s : State) (g t : Word) :
    (s.writeBlur g t).platform = s.platform := rfl
@[simp] theorem State.writeBlur_draws (s : State) (g t : Word) :
    (s.writeBlur g t).draws = s.draws := rfl
@[simp] theorem State.writeBlur_inputs (s : State) (g t : Word) :
    (s.writeBlur g t).inputs = s.inputs := rfl
@[simp] theorem State.writeBlur_outputs (s : State) (g t : Word) :
    (s.writeBlur g t).outputs = s.outputs := rfl

@[simp] theorem State.busError_operands (s : State) (a : Nat) :
    (s.busError a).operands = s.operands := rfl
@[simp] theorem State.busError_irqEn (s : State) (a : Nat) :
    (s.busError a).irqEn = s.irqEn := rfl
@[simp] theorem State.busError_done (s : State) (a : Nat) :
    (s.busError a).done = true := rfl
@[simp] theorem State.busError_err (s : State) (a : Nat) :
    (s.busError a).err = true := rfl
@[simp] theorem State.busError_ovr (s : State) (a : Nat) :
    (s.busError a).ovr = s.ovr := rfl
@[simp] theorem State.busError_errCode (s : State) (a : Nat) :
    (s.busError a).errCode = some .busError := rfl
@[simp] theorem State.busError_errInfo (s : State) (a : Nat) :
    (s.busError a).errInfo = BitVec.ofNat 32 (a) := rfl
@[simp] theorem State.busError_blurValid (s : State) (a : Nat) :
    (s.busError a).blurValid = s.blurValid := rfl
@[simp] theorem State.busError_isBlurred (s : State) (a : Nat) :
    (s.busError a).isBlurred = s.isBlurred := rfl
@[simp] theorem State.busError_maxGradient (s : State) (a : Nat) :
    (s.busError a).maxGradient = s.maxGradient := rfl
@[simp] theorem State.busError_engine (s : State) (a : Nat) :
    (s.busError a).engine = .idle := rfl
@[simp] theorem State.busError_resetAsserted (s : State) (a : Nat) :
    (s.busError a).resetAsserted = s.resetAsserted := rfl
@[simp] theorem State.busError_mem (s : State) (a : Nat) :
    (s.busError a).mem = s.mem := rfl
@[simp] theorem State.busError_platform (s : State) (a : Nat) :
    (s.busError a).platform = s.platform := rfl
@[simp] theorem State.busError_draws (s : State) (a : Nat) :
    (s.busError a).draws = s.draws + 1 := rfl
@[simp] theorem State.busError_inputs (s : State) (a : Nat) :
    (s.busError a).inputs = s.inputs := rfl
@[simp] theorem State.busError_outputs (s : State) (a : Nat) :
    (s.busError a).outputs = s.outputs := rfl

@[simp] theorem State.setOvr_operands (s : State) :
    (s.setOvr).operands = s.operands := rfl
@[simp] theorem State.setOvr_irqEn (s : State) :
    (s.setOvr).irqEn = s.irqEn := rfl
@[simp] theorem State.setOvr_done (s : State) :
    (s.setOvr).done = s.done := rfl
@[simp] theorem State.setOvr_err (s : State) :
    (s.setOvr).err = s.err := rfl
@[simp] theorem State.setOvr_ovr (s : State) :
    (s.setOvr).ovr = true := rfl
@[simp] theorem State.setOvr_errCode (s : State) :
    (s.setOvr).errCode = s.errCode := rfl
@[simp] theorem State.setOvr_errInfo (s : State) :
    (s.setOvr).errInfo = s.errInfo := rfl
@[simp] theorem State.setOvr_blurValid (s : State) :
    (s.setOvr).blurValid = s.blurValid := rfl
@[simp] theorem State.setOvr_isBlurred (s : State) :
    (s.setOvr).isBlurred = s.isBlurred := rfl
@[simp] theorem State.setOvr_maxGradient (s : State) :
    (s.setOvr).maxGradient = s.maxGradient := rfl
@[simp] theorem State.setOvr_engine (s : State) :
    (s.setOvr).engine = s.engine := rfl
@[simp] theorem State.setOvr_resetAsserted (s : State) :
    (s.setOvr).resetAsserted = s.resetAsserted := rfl
@[simp] theorem State.setOvr_mem (s : State) :
    (s.setOvr).mem = s.mem := rfl
@[simp] theorem State.setOvr_platform (s : State) :
    (s.setOvr).platform = s.platform := rfl
@[simp] theorem State.setOvr_draws (s : State) :
    (s.setOvr).draws = s.draws := rfl
@[simp] theorem State.setOvr_inputs (s : State) :
    (s.setOvr).inputs = s.inputs := rfl
@[simp] theorem State.setOvr_outputs (s : State) :
    (s.setOvr).outputs = s.outputs := rfl

@[simp] theorem State.output_operands (s : State) (o : Output) :
    (s.output o).operands = s.operands := rfl
@[simp] theorem State.output_irqEn (s : State) (o : Output) :
    (s.output o).irqEn = s.irqEn := rfl
@[simp] theorem State.output_done (s : State) (o : Output) :
    (s.output o).done = s.done := rfl
@[simp] theorem State.output_err (s : State) (o : Output) :
    (s.output o).err = s.err := rfl
@[simp] theorem State.output_ovr (s : State) (o : Output) :
    (s.output o).ovr = s.ovr := rfl
@[simp] theorem State.output_errCode (s : State) (o : Output) :
    (s.output o).errCode = s.errCode := rfl
@[simp] theorem State.output_errInfo (s : State) (o : Output) :
    (s.output o).errInfo = s.errInfo := rfl
@[simp] theorem State.output_blurValid (s : State) (o : Output) :
    (s.output o).blurValid = s.blurValid := rfl
@[simp] theorem State.output_isBlurred (s : State) (o : Output) :
    (s.output o).isBlurred = s.isBlurred := rfl
@[simp] theorem State.output_maxGradient (s : State) (o : Output) :
    (s.output o).maxGradient = s.maxGradient := rfl
@[simp] theorem State.output_engine (s : State) (o : Output) :
    (s.output o).engine = s.engine := rfl
@[simp] theorem State.output_resetAsserted (s : State) (o : Output) :
    (s.output o).resetAsserted = s.resetAsserted := rfl
@[simp] theorem State.output_mem (s : State) (o : Output) :
    (s.output o).mem = s.mem := rfl
@[simp] theorem State.output_platform (s : State) (o : Output) :
    (s.output o).platform = s.platform := rfl
@[simp] theorem State.output_draws (s : State) (o : Output) :
    (s.output o).draws = s.draws := rfl
@[simp] theorem State.output_inputs (s : State) (o : Output) :
    (s.output o).inputs = s.inputs := rfl
@[simp] theorem State.output_outputs (s : State) (o : Output) :
    (s.output o).outputs = s.outputs ++ [o] := rfl

@[simp] theorem State.withInputs_operands (s : State) (rest : List Input) :
    (s.withInputs rest).operands = s.operands := rfl
@[simp] theorem State.withInputs_irqEn (s : State) (rest : List Input) :
    (s.withInputs rest).irqEn = s.irqEn := rfl
@[simp] theorem State.withInputs_done (s : State) (rest : List Input) :
    (s.withInputs rest).done = s.done := rfl
@[simp] theorem State.withInputs_err (s : State) (rest : List Input) :
    (s.withInputs rest).err = s.err := rfl
@[simp] theorem State.withInputs_ovr (s : State) (rest : List Input) :
    (s.withInputs rest).ovr = s.ovr := rfl
@[simp] theorem State.withInputs_errCode (s : State) (rest : List Input) :
    (s.withInputs rest).errCode = s.errCode := rfl
@[simp] theorem State.withInputs_errInfo (s : State) (rest : List Input) :
    (s.withInputs rest).errInfo = s.errInfo := rfl
@[simp] theorem State.withInputs_blurValid (s : State) (rest : List Input) :
    (s.withInputs rest).blurValid = s.blurValid := rfl
@[simp] theorem State.withInputs_isBlurred (s : State) (rest : List Input) :
    (s.withInputs rest).isBlurred = s.isBlurred := rfl
@[simp] theorem State.withInputs_maxGradient (s : State) (rest : List Input) :
    (s.withInputs rest).maxGradient = s.maxGradient := rfl
@[simp] theorem State.withInputs_engine (s : State) (rest : List Input) :
    (s.withInputs rest).engine = s.engine := rfl
@[simp] theorem State.withInputs_resetAsserted (s : State) (rest : List Input) :
    (s.withInputs rest).resetAsserted = s.resetAsserted := rfl
@[simp] theorem State.withInputs_mem (s : State) (rest : List Input) :
    (s.withInputs rest).mem = s.mem := rfl
@[simp] theorem State.withInputs_platform (s : State) (rest : List Input) :
    (s.withInputs rest).platform = s.platform := rfl
@[simp] theorem State.withInputs_draws (s : State) (rest : List Input) :
    (s.withInputs rest).draws = s.draws := rfl
@[simp] theorem State.withInputs_inputs (s : State) (rest : List Input) :
    (s.withInputs rest).inputs = rest := rfl
@[simp] theorem State.withInputs_outputs (s : State) (rest : List Input) :
    (s.withInputs rest).outputs = s.outputs := rfl

/-- What the breach record's update does: it touches ENGINE alone. -/
theorem State.withBreach_eq (s : State) (b : Breach) :
    s.withBreach b = { s with engine := match s.engine with | .idle => .idle | .busy l _ => .busy l b } := by
  cases h : s.engine <;> simp only [State.withBreach, h]
  rw [← h]

@[simp] theorem State.withBreach_operands (s : State) (b : Breach) : (s.withBreach b).operands = s.operands := by
  rw [State.withBreach_eq]
@[simp] theorem State.withBreach_irqEn (s : State) (b : Breach) : (s.withBreach b).irqEn = s.irqEn := by
  rw [State.withBreach_eq]
@[simp] theorem State.withBreach_done (s : State) (b : Breach) : (s.withBreach b).done = s.done := by
  rw [State.withBreach_eq]
@[simp] theorem State.withBreach_err (s : State) (b : Breach) : (s.withBreach b).err = s.err := by
  rw [State.withBreach_eq]
@[simp] theorem State.withBreach_ovr (s : State) (b : Breach) : (s.withBreach b).ovr = s.ovr := by
  rw [State.withBreach_eq]
@[simp] theorem State.withBreach_errCode (s : State) (b : Breach) : (s.withBreach b).errCode = s.errCode := by
  rw [State.withBreach_eq]
@[simp] theorem State.withBreach_errInfo (s : State) (b : Breach) : (s.withBreach b).errInfo = s.errInfo := by
  rw [State.withBreach_eq]
@[simp] theorem State.withBreach_blurValid (s : State) (b : Breach) : (s.withBreach b).blurValid = s.blurValid := by
  rw [State.withBreach_eq]
@[simp] theorem State.withBreach_isBlurred (s : State) (b : Breach) : (s.withBreach b).isBlurred = s.isBlurred := by
  rw [State.withBreach_eq]
@[simp] theorem State.withBreach_maxGradient (s : State) (b : Breach) : (s.withBreach b).maxGradient = s.maxGradient := by
  rw [State.withBreach_eq]
@[simp] theorem State.withBreach_resetAsserted (s : State) (b : Breach) : (s.withBreach b).resetAsserted = s.resetAsserted := by
  rw [State.withBreach_eq]
@[simp] theorem State.withBreach_mem (s : State) (b : Breach) : (s.withBreach b).mem = s.mem := by
  rw [State.withBreach_eq]
@[simp] theorem State.withBreach_platform (s : State) (b : Breach) : (s.withBreach b).platform = s.platform := by
  rw [State.withBreach_eq]
@[simp] theorem State.withBreach_draws (s : State) (b : Breach) : (s.withBreach b).draws = s.draws := by
  rw [State.withBreach_eq]
@[simp] theorem State.withBreach_inputs (s : State) (b : Breach) : (s.withBreach b).inputs = s.inputs := by
  rw [State.withBreach_eq]
@[simp] theorem State.withBreach_outputs (s : State) (b : Breach) : (s.withBreach b).outputs = s.outputs := by
  rw [State.withBreach_eq]

@[simp] theorem State.withBreach_busy (s : State) (b : Breach) : (s.withBreach b).busy = s.busy := by
  cases h : s.engine <;> simp [State.busy, State.withBreach, h]

end Sys2Proof.Machine
end

