-- ==== Sys2Proof/Laws/Ops.lean ====
section
/-! SUPPORT. What running a command can do, said once: the cases of `runPlan`, and the clean case in full. -/

namespace Sys2Proof.Machine

/-- The drawn position is one of those counted (60_exceptions.md R257). -/
theorem drawPosition_lt (n count : Nat) (h : 0 < count) : drawPosition n count < count := by
  unfold drawPosition
  split
  · exact h
  · exact Nat.mod_lt _ h

/-- With one refused access, the draw has no choice. -/
@[simp] theorem drawPosition_one (n : Nat) : drawPosition n 1 = 0 := rfl

theorem State.mem_refusedKernel (s : State) (p : Plan) (a : Nat) :
    a ∈ s.refusedKernel p ↔ a ∈ p.kernelReads ∧ memOK s.platform .read a = false :=
  mem_refusedAmong s.platform .read p.kernelReads a

theorem State.mem_refusedPixels (s : State) (p : Plan) (a : Nat) :
    a ∈ s.refusedPixels p ↔
      (a ∈ p.reads ∧ memOK s.platform .read a = false) ∨ (a ∈ p.writes ∧ memOK s.platform .write a = false) := by
  simp [State.refusedPixels, mem_refusedAmong]

/-- Everything running a command that passed its checks can do: report a refused kernel byte, report another refused byte,
or take its effect where no access is refused. -/
theorem State.runPlan_cases (s : State) (p : Plan) :
    (∃ a ∈ s.refusedKernel p, s.runPlan p = s.busError a) ∨
    (∃ a ∈ s.refusedPixels p, s.runPlan p = (s.unspecify p.mayChange).busError a) ∨
    (s.refusedKernel p = [] ∧ s.refusedPixels p = [] ∧ s.runPlan p = s.applyPlan p) := by
  cases h : s.refusedKernel p ++ s.refusedPixels p with
  | nil => exact .inr (.inr ⟨(List.append_eq_nil_iff.1 h).1, (List.append_eq_nil_iff.1 h).2, by simp [State.runPlan, h]⟩)
  | cons a others =>
    have hlt := drawPosition_lt s.draws (a :: others).length (by simp)
    have hrun : s.runPlan p =
        if drawPosition s.draws (a :: others).length < (s.refusedKernel p).length then
          s.busError ((a :: others).getD (drawPosition s.draws (a :: others).length) a)
        else (s.unspecify p.mayChange).busError ((a :: others).getD (drawPosition s.draws (a :: others).length) a) := by
      simp only [State.runPlan, h]
    generalize drawPosition s.draws (a :: others).length = n at hlt hrun
    rw [hrun, List.getD_eq_getElem _ _ hlt]
    simp only [← h] at hlt ⊢
    by_cases hk : n < (s.refusedKernel p).length
    · refine .inl ⟨_, ?_, if_pos hk⟩
      rw [List.getElem_append_left hk]
      exact List.getElem_mem hk
    · refine .inr (.inl ⟨_, ?_, if_neg hk⟩)
      rw [List.getElem_append_right (Nat.le_of_not_lt hk)]
      exact List.getElem_mem _

/-- A command that reads no kernel byte that is refused reports another access, or none. -/
theorem State.runPlan_of_kernel_admitted (s : State) (p : Plan) (h : s.refusedKernel p = []) :
    (∃ a ∈ s.refusedPixels p, s.runPlan p = (s.unspecify p.mayChange).busError a) ∨
    (s.refusedPixels p = [] ∧ s.runPlan p = s.applyPlan p) := by
  rcases s.runPlan_cases p with ⟨a, ha, -⟩ | h' | ⟨-, h'⟩
  · rw [h] at ha
    cases ha
  · exact .inl h'
  · exact .inr h'

/-- A command whose accesses are all admitted, whose buffers do not overlap, and whose host kept its obligation: every output
byte has its value, and nothing else changes but the result registers and the end of the command (20_memory.md R79). -/
theorem State.runPlan_clean (s : State) (p : Plan) (hk : ∀ a ∈ p.kernelReads, memOK s.platform .read a = true)
    (hr : ∀ a ∈ p.reads, memOK s.platform .read a = true) (hw : ∀ a ∈ p.writes, memOK s.platform .write a = true)
    (ho : p.overlaps = false) (hb : s.breach = Breach.none) :
    s.runPlan p = ((s.withMem (s.mem.writeAll (p.cells s.mem))).writeResult p.result s.mem).complete := by
  have h1 : s.refusedKernel p = [] := (refusedAmong_eq_nil _ _ _).2 hk
  have h2 : s.refusedPixels p = [] := by
    rw [State.refusedPixels, (refusedAmong_eq_nil _ _ _).2 hr, (refusedAmong_eq_nil _ _ _).2 hw, List.nil_append]
  rcases s.runPlan_of_kernel_admitted p h1 with ⟨a, ha, -⟩ | ⟨-, h⟩
  · rw [h2] at ha
    cases ha
  · rw [h]
    simp [State.applyPlan, ho, hb, Breach.none, State.spoilWritten]

/-- An operand-check error is raised with ERR_INFO 0 and touches no memory (60_exceptions.md R255). -/
@[simp] theorem State.runCommand_error (s : State) (e : CmdError) : s.runCommand (.error e) = s.raise e 0 := rfl

@[simp] theorem State.runCommand_ok (s : State) (p : Plan) : s.runCommand (.ok p) = s.runPlan p := rfl

/-- The addresses of the stored cells are the plan's writes. -/
theorem Plan.cells_addrs (p : Plan) (m : Memory) : (p.cells m).map Prod.fst = p.writes := by
  simp [Plan.cells, Plan.writes, Function.comp_def]

/-- A stored byte reads back with its value, where no address is stored twice. -/
theorem Plan.read_stored (p : Plan) (m : Memory) (c : Store) (h : m.wf = true) (hn : p.writes.Nodup)
    (hc : c ∈ p.stores) : (m.writeAll (p.cells m)).read c.addr = c.value m :=
  Memory.read_writeAll_of_mem m (p.cells m) (c.addr, c.value m) h (by rwa [Plan.cells_addrs])
    (List.mem_map.2 ⟨c, hc, rfl⟩)

/-- A byte that a plan does not store to keeps its value. -/
theorem Plan.read_other (p : Plan) (m : Memory) (a : Nat) (h : m.wf = true) (ha : a ∉ p.writes) :
    (m.writeAll (p.cells m)).read a = m.read a := by
  refine Memory.read_writeAll_of_not_mem m _ a h fun c hc he => ha ?_
  rw [← Plan.cells_addrs p m]
  exact List.mem_map.2 ⟨c, hc, he⟩

@[simp] theorem State.spoilWritten_nil (s : State) : s.spoilWritten [] = s := rfl

/-- A completed command is IDLE and DONE. -/
@[simp] theorem State.complete_busy (s : State) : s.complete.busy = false := rfl

end Sys2Proof.Machine
end

