-- ==== Sys2Proof/Laws/Commands.lean ====
section
/-! SUPPORT. The shape of a command's meaning, of the engine's turn and of a register access, said once. -/

namespace Sys2Proof.Machine

/-- Every command is its operand checks and its plan, run. -/
theorem exec_eq_runCommand (i : Instr) (s : State) :
    exec i s = .next (s.runCommand (commandPlan i s.latched)) := by cases i <;> rfl

/-- The engine's turn always answers a next state. -/
theorem engineTurn_next (s : State) : ∃ t, engineTurn s = .next t := by
  unfold engineTurn
  split
  · exact ⟨_, rfl⟩
  · split
    · exact ⟨_, exec_eq_runCommand _ _⟩
    · exact ⟨_, rfl⟩

/-- The offsets of 10_state.md R21 name their registers. -/
@[simp] theorem Reg.ofOffset_offset (r : Reg) : Reg.ofOffset r.offset = some r := by cases r <;> rfl

/-- An aligned offset inside the block is a defined access (10_state.md R22). -/
theorem State.portOffset_of_lt (s : State) (o : Nat) (h : o < 128) (h4 : o % 4 = 0) :
    s.portOffset (s.platform.regBase + o) 4 = some o := by
  simp [State.portOffset, Config.regBlockSize, h, h4]

theorem State.portOffset_register (s : State) (r : Reg) :
    s.portOffset (s.platform.regBase + r.offset) 4 = some r.offset := by
  apply State.portOffset_of_lt <;> cases r <;> decide

/-- A defined access reaches the block while the reset input is released. -/
theorem State.onPort_defined (s : State) (a n o : Nat) (f : Nat → State) (h : s.resetAsserted = false)
    (ho : s.portOffset a n = some o) : s.onPort a n f = .next (f o) := by
  simp [State.onPort, h, ho]

/-- Taking an event changes neither what a register reads nor which accesses are defined. -/
@[simp] theorem State.withInputs_readOffset (s : State) (rest : List Input) (o : Nat) :
    (s.withInputs rest).readOffset o = s.readOffset o := by
  unfold State.readOffset
  split
  · rename_i r _
    cases r <;> rfl
  · rfl

@[simp] theorem State.withInputs_portOffset (s : State) (rest : List Input) (a n : Nat) :
    (s.withInputs rest).portOffset a n = s.portOffset a n := rfl

end Sys2Proof.Machine
end

