-- ==== Sys2Proof/Laws/Convolution.lean ====
section
/-! SUPPORT. The totals of a convolution window, cell by cell, and the number of its cells. -/

namespace Sys2Proof.Machine

/-- No cell, no total. -/
@[simp] theorem windowTotals_nil (s : Buffer) (k : Kernel) (m : Memory) (x y l : Nat) :
    windowTotals s k m x y l [] = { sum := 0, wsum := 0, clipped := false } := rfl

/-- What one more cell adds: nothing but the clipping where it is outside the image, else its product and its weight
(42_convolution.md R203). -/
theorem windowTotals_concat (s : Buffer) (k : Kernel) (m : Memory) (x y l : Nat) (cells : List (Nat × Nat))
    (c : Nat × Nat) :
    windowTotals s k m x y l (cells ++ [c]) =
      match windowCell s k.size x y c.1 c.2 with
      | none => { windowTotals s k m x y l cells with clipped := true }
      | some p =>
          { windowTotals s k m x y l cells with
            sum := (windowTotals s k m x y l cells).sum + k.weight c.1 c.2 * (s.laneRead m p.1 p.2 l : Int)
            wsum := (windowTotals s k m x y l cells).wsum + k.weight c.1 c.2 } := by
  rw [windowTotals, List.foldl_append]
  rfl

@[simp] theorem length_kernelCells (size : Nat) : (kernelCells size).length = size * size := by
  simp [kernelCells, List.length_flatMap]

theorem mem_kernelCells (size : Nat) (c : Nat × Nat) : c ∈ kernelCells size ↔ c.1 < size ∧ c.2 < size := by
  obtain ⟨i, j⟩ := c
  simp [kernelCells]

end Sys2Proof.Machine
end

