-- ==== Sys2Proof/Laws/Float64.lean ====
section
/-! SUPPORT. The laws of binary64 rounding: the exponent of a value, the error of a rounding, and the values rounding leaves
alone. -/

namespace Sys2Proof.Machine

theorem pow2_eq_zpow (e : Int) : pow2 e = (2 : ℚ) ^ e := by
  unfold pow2
  split
  · rename_i h
    obtain ⟨n, rfl⟩ := Int.eq_ofNat_of_zero_le h
    simp
  · rename_i h
    obtain ⟨n, hn⟩ := Int.eq_ofNat_of_zero_le (show 0 ≤ -e by omega)
    rw [hn]
    obtain rfl : e = -(n : Int) := by omega
    simp

theorem pow2_pos (e : Int) : 0 < pow2 e := by
  rw [pow2_eq_zpow]
  positivity

theorem magnitude_eq_abs (q : Rat) : magnitude q = |q| := by
  unfold magnitude
  split
  · rw [abs_of_neg ‹_›]
  · rw [abs_of_nonneg (not_lt.1 ‹_›)]

/-- The nearest integer is within one half. -/
theorem nearestEven_error (q : Rat) : |(nearestEven q : ℚ) - q| ≤ 1 / 2 := by
  have h1 : (q.floor : ℚ) ≤ q := Rat.floor_le q
  have h2 : q < (q.floor : ℚ) + 1 := by exact_mod_cast Rat.lt_floor_add_one q
  unfold nearestEven
  simp only
  rw [abs_le]
  split
  · constructor <;> linarith
  · split
    · push_cast
      constructor <;> linarith
    · split <;> push_cast <;> constructor <;> linarith

/-- An integer is its own nearest integer. -/
@[simp] theorem nearestEven_intCast (n : Int) : nearestEven (n : ℚ) = n := by
  unfold nearestEven
  simp

/-- The binade of a value that is not zero. -/
theorem binade_spec (q : Rat) (hq : q ≠ 0) : pow2 (binade q) ≤ |q| ∧ |q| < pow2 (binade q + 1) := by
  have hn : q.num.natAbs ≠ 0 := by simpa using hq
  have hd : q.den ≠ 0 := q.den_nz
  have n1 := Nat.log2_self_le hn
  have n2 := Nat.lt_log2_self (n := q.num.natAbs)
  have d1 := Nat.log2_self_le hd
  have d2 := Nat.lt_log2_self (n := q.den)
  have hdpos : (0 : ℚ) < q.den := by exact_mod_cast Nat.pos_of_ne_zero hd
  have habs : |q| = (q.num.natAbs : ℚ) / (q.den : ℚ) := by
    conv_lhs => rw [← Rat.num_div_den q]
    rw [abs_div, abs_of_pos hdpos]
    congr 1
    rw [Nat.cast_natAbs]
    simp
  set N := q.num.natAbs
  set D := q.den
  have cn1 : (2 : ℚ) ^ N.log2 ≤ N := by exact_mod_cast n1
  have cn2 : (N : ℚ) < 2 ^ (N.log2 + 1) := by exact_mod_cast n2
  have cd1 : (2 : ℚ) ^ D.log2 ≤ D := by exact_mod_cast d1
  have cd2 : (D : ℚ) < 2 ^ (D.log2 + 1) := by exact_mod_cast d2
  have hup : |q| < pow2 ((N.log2 : Int) - D.log2 + 1) := by
    rw [habs, pow2_eq_zpow, div_lt_iff₀ hdpos]
    calc (N : ℚ) < 2 ^ (N.log2 + 1) := cn2
      _ = (2 : ℚ) ^ ((N.log2 : Int) - D.log2 + 1) * 2 ^ D.log2 := by
        rw [← zpow_natCast, ← zpow_natCast, ← zpow_add₀ (by norm_num)]
        congr 1
        push_cast
        ring
      _ ≤ _ := by gcongr
  have hlow : pow2 ((N.log2 : Int) - D.log2 - 1) ≤ |q| := by
    rw [habs, pow2_eq_zpow, le_div_iff₀ hdpos]
    calc (2 : ℚ) ^ ((N.log2 : Int) - D.log2 - 1) * D ≤ (2 : ℚ) ^ ((N.log2 : Int) - D.log2 - 1) * 2 ^ (D.log2 + 1) := by
          gcongr
      _ = 2 ^ N.log2 := by
        rw [← zpow_natCast, ← zpow_natCast, ← zpow_add₀ (by norm_num)]
        congr 1
        push_cast
        ring
      _ ≤ N := cn1
  unfold binade
  simp only [magnitude_eq_abs]
  split
  · exact ⟨‹_›, hup⟩
  · refine ⟨hlow, ?_⟩
    rw [sub_add_cancel]
    exact not_le.1 ‹_›

theorem ulp64_pos (q : Rat) : 0 < ulp64 q := pow2_pos _

@[simp] theorem round64_zero : round64 0 = 0 := rfl

/-- A rounding moves a value by at most half the spacing there (00_scope.md R9). -/
theorem round64_error (q : Rat) : |round64 q - q| ≤ ulp64 q / 2 := by
  unfold round64
  split
  · subst_vars
    have := ulp64_pos 0
    rw [sub_zero, abs_zero]
    linarith
  · have hu := ulp64_pos q
    have h := nearestEven_error (q / ulp64 q)
    have : (nearestEven (q / ulp64 q) : ℚ) * ulp64 q - q = ((nearestEven (q / ulp64 q) : ℚ) - q / ulp64 q) * ulp64 q := by
      field_simp
    rw [this, abs_mul, abs_of_pos hu]
    nlinarith

/-- A multiple of the spacing is left alone. -/
theorem round64_of_multiple (q : Rat) (n : Int) (h : q = n * ulp64 q) : round64 q = q := by
  unfold round64
  split
  · subst_vars
    rfl
  · have hu := (ulp64_pos q).ne'
    have : q / ulp64 q = (n : ℚ) := by
      rw [div_eq_iff hu]
      exact h
    rw [this, nearestEven_intCast]
    exact h.symm

/-- Below 2^53 times the spacing of a power of two, the binade is that low. -/
theorem binade_lt (q : Rat) (e : Int) (hq : q ≠ 0) (h : |q| < pow2 e) : binade q < e := by
  have := lt_of_le_of_lt (binade_spec q hq).1 h
  rw [pow2_eq_zpow, pow2_eq_zpow] at this
  exact (zpow_lt_zpow_iff_right₀ (by norm_num)).1 this

theorem pow2_add_nat (e : Int) (k : Nat) : pow2 (k + e) = 2 ^ k * pow2 e := by
  rw [pow2_eq_zpow, pow2_eq_zpow, zpow_add₀ (by norm_num), zpow_natCast]

/-- A value that binary64 represents, n times a power of two with n below 2^53 in magnitude, is left alone. -/
theorem round64_exact (n : Int) (e : Int) (hn : |n| < 2 ^ 53) (he : -1074 ≤ e) : round64 (n * pow2 e) = n * pow2 e := by
  by_cases h0 : n = 0
  · subst h0
    simp
  have hp := pow2_pos e
  have hq : (n : ℚ) * pow2 e ≠ 0 := mul_ne_zero (by exact_mod_cast h0) hp.ne'
  have hcast : |(n : ℚ)| < 2 ^ 53 := by exact_mod_cast hn
  have hlt : |(n : ℚ) * pow2 e| < pow2 (((53 : Nat) : Int) + e) := by
    rw [abs_mul, abs_of_pos hp, pow2_add_nat]
    exact mul_lt_mul_of_pos_right hcast hp
  have hle := binade_lt _ _ hq hlt
  generalize hw : (n : ℚ) * pow2 e = q at hq hle ⊢
  obtain ⟨k, hk⟩ := Int.eq_ofNat_of_zero_le (show 0 ≤ e - max (binade q - 52) (-1074) by omega)
  refine round64_of_multiple _ (n * 2 ^ k) ?_
  have hek : pow2 e = 2 ^ k * ulp64 q := by
    unfold ulp64
    rw [← pow2_add_nat]
    congr 1
    omega
  refine hw.symm.trans ?_
  rw [hek]
  push_cast
  ring

/-- An integer below 2^53 in magnitude converts exactly (00_scope.md R9). -/
theorem f64_exact (n : Int) (hn : |n| < 2 ^ 53) : f64 n = (n : ℚ) := by
  have := round64_exact n 0 hn (by norm_num)
  have h1 : pow2 0 = 1 := by rw [pow2_eq_zpow, zpow_zero]
  rw [h1, mul_one] at this
  exact this

end Sys2Proof.Machine
end

