-- ==== Sys2Proof/Laws/PerInstr.lean ====
section
/-! SUPPORT. Statements made per command: `TableRow`, that a command's word matches its row of spec/opcode_table.json. -/

namespace Sys2Proof.Laws

/-- The mask of a command's row of spec/opcode_table.json. -/
def rowMask : Instr → Word
  | .convolve _ _ _ _ => 0xFF80F8FF
  | _ => 0xFFFFFFFF

/-- The match value of a command's row of spec/opcode_table.json. -/
def rowMatch : Instr → Word
  | .nop => 0x00000000
  | .clear => 0x00000001
  | .getPixel => 0x00000002
  | .setPixel => 0x00000003
  | .copy => 0x00000004
  | .resampleNearest => 0x00000005
  | .resampleBilinear => 0x00000015
  | .resampleBicubic => 0x00000025
  | .convolve _ _ _ _ => 0x00000006
  | .detectBlur => 0x00000007

/-- The word of a well-formed command has, under its row's mask, its row's match value. -/
def TableRow.Statement (i : Instr) : Prop := i.wellFormed = true → encode i &&& rowMask i = rowMatch i

theorem TableRow.nop : TableRow.Statement .nop := fun _ => by decide

theorem TableRow.clear : TableRow.Statement .clear := fun _ => by decide

theorem TableRow.getPixel : TableRow.Statement .getPixel := fun _ => by decide

theorem TableRow.setPixel : TableRow.Statement .setPixel := fun _ => by decide

theorem TableRow.copy : TableRow.Statement .copy := fun _ => by decide

theorem TableRow.resampleNearest : TableRow.Statement .resampleNearest := fun _ => by decide

theorem TableRow.resampleBilinear : TableRow.Statement .resampleBilinear := fun _ => by decide

theorem TableRow.resampleBicubic : TableRow.Statement .resampleBicubic := fun _ => by decide

theorem TableRow.convolve (ksize : Nat) (dynDiv procAlpha divAuto : Bool) :
    TableRow.Statement (.convolve ksize dynDiv procAlpha divAuto) := by
  intro h
  have hk : ksize < 128 := by simpa [Instr.wellFormed] using h
  have all : ∀ k : Fin 128, ∀ d p a : Bool,
      encode (.convolve k.val d p a) &&& (0xFF80F8FF : Word) = 0x00000006 := by decide +kernel
  exact all ⟨ksize, hk⟩ dynDiv procAlpha divAuto

theorem TableRow.detectBlur : TableRow.Statement .detectBlur := fun _ => by decide

end Sys2Proof.Laws
end

