-- ==== Sys2Proof/Tests/Slice0.lean ====
section
/-! SUPPORT. The model's own tests: words written out from 30_encoding.md, one-step runs with the results of
95_test_vectors.md (each names its vector), and for each statement with hypotheses a state that meets them all. -/

namespace Sys2Proof.Tests

open Sys2Proof Sys2Proof.Machine

/-! ## Helpers -/

/-- A descriptor `(BASE, W, H, STRIDE, FMT)`, in the notation of 95_test_vectors.md. -/
def desc (base w h stride fmt : Nat) : Descriptor :=
  { base := BitVec.ofNat 32 base, size := packHalves (BitVec.ofNat 32 w) (BitVec.ofNat 32 h), stride := BitVec.ofNat 32 stride, fmt := BitVec.ofNat 3 fmt }

/-- A memory with these bytes from an address on. -/
def bytesAt (a : Nat) (l : List Nat) (m : Memory) : Memory :=
  m.writeAll (l.zipIdx.map fun p => (a + p.2, BitVec.ofNat 8 p.1))

/-- A memory with these kernel weights from an address on, as little-endian 32-bit words. -/
def wordsAt (a : Nat) (l : List Int) (m : Memory) : Memory :=
  bytesAt a (l.flatMap fun w => (List.range 4).map fun k => (byteOf (BitVec.ofInt 32 w).toNat k).toNat) m

/-- Operand registers with these descriptors. -/
def ops (src dst : Descriptor) : Operands := { Operands.reset with src := src, dst := dst }

/-- The state in which the command word has been accepted with these operand registers and this memory. -/
def accepted (o : Operands) (m : Memory) (w : Nat) : State :=
  ({ State.reset with operands := o, mem := m } : State).withFetchWord 32 w

/-- The state after a step; the same state where the step stops. -/
def after (s : State) : State :=
  match step s with
  | .next t => t
  | _ => s

/-- The bytes of the data memory from an address on. -/
def bytesOf (s : State) (a n : Nat) : List Nat := (List.range n).map fun k => (s.mem.read (a + k)).toNat

/-- STATUS as the host reads it. -/
def statusOf (s : State) : Word := s.readReg .status

/-! ## Well-formedness: each check refuses an ill-formed term -/

theorem test_wellFormed_refuses_ksize_128 : (Instr.convolve 128 false false false).wellFormed = false := by decide

theorem test_wellFormed_admits_ksize_127 : (Instr.convolve 127 true true true).wellFormed = true := by decide

/-! ## Decoding: words written out from 30_encoding.md R90 to R98 -/

theorem test_decode_nop : decode 0b00000000000000000000000000000000 = .ok .nop := by decide

theorem test_decode_clear : decode 0b00000000000000000000000000000001 = .ok .clear := by decide

theorem test_decode_getPixel : decode 0b00000000000000000000000000000010 = .ok .getPixel := by decide

theorem test_decode_setPixel : decode 0b00000000000000000000000000000011 = .ok .setPixel := by decide

theorem test_decode_copy : decode 0b00000000000000000000000000000100 = .ok .copy := by decide

theorem test_decode_resampleNearest : decode 0b00000000000000000000000000000101 = .ok .resampleNearest := by decide

theorem test_decode_resampleBilinear : decode 0b00000000000000000000000000010101 = .ok .resampleBilinear := by decide

theorem test_decode_resampleBicubic : decode 0b00000000000000000000000000100101 = .ok .resampleBicubic := by decide

theorem test_decode_convolve :
    decode 0b00000000010001010000000100000110 = .ok (.convolve 69 true false false) ∧
      decode 0b00000000000000110000001000000110 = .ok (.convolve 3 false true false) ∧
      decode 0b00000000000000110000010000000110 = .ok (.convolve 3 false false true) := by decide

theorem test_decode_detectBlur : decode 0b00000000000000000000000000000111 = .ok .detectBlur := by decide

/-- V2 of 95_test_vectors.md: the words that are no command. -/
theorem test_decode_refuses_unused_bits :
    [0x00000010, 0x80000001, 0x00000045, 0x00000017, 0x00030086, 0x00030806, 0x00830406].map decode =
      List.replicate 7 (Except.error IllegalWord.nonzeroUnusedField) := by decide

theorem test_decode_refuses_reserved :
    decode 0x00000008 = .error .reservedOp ∧ decode 0x0000000F = .error .reservedOp ∧
      decode 0x00000035 = .error .reservedAlg := by decide

theorem test_decode_keeps_ksize_127 : decode 0x007F0406 = .ok (.convolve 127 false false true) := by decide

theorem test_table_word : decodeTableWord 32 0x00630706 = some (.convolve 99 true true true) := by decide

/-! ## One step of each command: the vectors of 95_test_vectors.md -/

/-- E9, R121: a NOP ends with DONE alone. -/
theorem test_nop_ends_done : statusOf (after (accepted Operands.reset [] 0x00000000)) = 0x00000002 := by decide

/-- E9, R122: padding is cleared, the byte after the region is not. -/
theorem test_clear_padding :
    bytesOf (after (accepted (ops (desc 0 0 0 0 0) (desc 0x100 3 2 4 0)) (bytesAt 0x100 (List.replicate 9 0xEE) []) 1))
      0x100 9 = [0, 0, 0, 0, 0, 0, 0, 0, 0xEE] := by decide

/-- V3: a region may end exactly at 2^32, and may not go beyond. -/
theorem test_clear_top_of_memory :
    statusOf (after (accepted (ops (desc 0 0 0 0 0) (desc 0xFFFFFFF0 4 1 16 0)) [] 1)) = 0x00000002 ∧
      statusOf (after (accepted (ops (desc 0 0 0 0 0) (desc 0xFFFFFFF0 4 2 16 0)) [] 1)) = 0x00000506 := by decide

/-- V4: GET_PIXEL on RGB32, pixel (1, 0). -/
theorem test_getPixel_rgb32 :
    let t := after (accepted
      { ops (desc 0 2 1 8 3) (desc 0 0 0 0 0) with pixXY := 0x00000001 } (bytesAt 4 [0x10, 0x20, 0x30, 0x40] []) 2)
    [Reg.pixB, .pixG, .pixR, .pixA].map t.readReg = [0x10, 0x20, 0x30, 0x40] := by decide

/-- V4: GET_PIXEL on GRAY16: one little-endian intensity in B, G and R. -/
theorem test_getPixel_gray16 :
    let t := after (accepted
      { ops (desc 0 2 1 4 1) (desc 0 0 0 0 0) with pixXY := 0x00000001, pixA := 9 } (bytesAt 2 [0x34, 0x12] []) 2)
    [Reg.pixB, .pixG, .pixR, .pixA].map t.readReg = [0x1234, 0x1234, 0x1234, 0] := by decide

/-- V4: SET_PIXEL on GRAY16, G alone: trunc(46883.739). -/
theorem test_setPixel_gray16_luma :
    bytesOf (after (accepted { ops (desc 0 0 0 0 0) (desc 0x1000 1 1 2 1) with pixG := 0xFFFF } [] 3)) 0x1000 2 =
      [0x23, 0xB7] := by decide +kernel

/-- V4: SET_PIXEL on RGB32 drops the bits above each lane. -/
theorem test_setPixel_rgb32 :
    bytesOf (after (accepted
      { ops (desc 0 0 0 0 0) (desc 0x1000 1 1 4 3) with pixB := 1, pixG := 2, pixR := 3, pixA := 0x1FF } [] 3)) 0x1000 5 =
      [1, 2, 3, 0xFF, 0] := by decide

/-- E9, R126: COPY takes the lesser stride, source padding included, and keeps the destination's other bytes. -/
theorem test_copy_strides :
    bytesOf (after (accepted (ops (desc 0 2 2 4 0) (desc 0x100 2 2 8 0))
      (bytesAt 0x100 (List.replicate 16 0xEE) (bytesAt 0 [1, 2, 0xAA, 0xAA, 3, 4, 0xBB, 0xBB] [])) 4)) 0x100 16 =
      [1, 2, 0xAA, 0xAA, 0xEE, 0xEE, 0xEE, 0xEE, 3, 4, 0xBB, 0xBB, 0xEE, 0xEE, 0xEE, 0xEE] := by decide

/-- E9, R161: NEAREST from 4x1 to 2x1. -/
theorem test_nearest_halves :
    bytesOf (after (accepted (ops (desc 0 4 1 4 0) (desc 0x1000 2 1 2 0)) (bytesAt 0 [10, 20, 30, 40] []) 5)) 0x1000 2 =
      [10, 30] := by decide +kernel

/-- V5: formats that differ end RESAMPLE with SIZE_MISMATCH. -/
theorem test_nearest_format_mismatch :
    statusOf (after (accepted (ops (desc 0 2 1 2 0) (desc 0x1000 2 1 6 2)) [] 5)) = 0x00000506 := by decide

/-- V6: BILINEAR on GRAY16 works byte by byte. -/
theorem test_bilinear_gray16_bytes :
    bytesOf (after (accepted (ops (desc 0 2 1 4 1) (desc 0x1000 4 1 8 1)) (bytesAt 0 [0xFF, 0, 0, 1] []) 0x15)) 0x1000 8 =
      [0xFF, 0, 0x7F, 0, 0, 1, 0, 1] := by decide +kernel

/-- E5: a uniform 255 gives 254 where the binary64 sum falls below 255. -/
theorem test_bilinear_truncates :
    bytesOf (after (accepted (ops (desc 0 1 1 1 0) (desc 0x1000 7 1 7 0)) (bytesAt 0 [255] []) 0x15)) 0x1000 7 =
      [255, 255, 255, 254, 255, 255, 255] := by decide +kernel

/-- V7: BICUBIC from 4x1 to the same size is not the identity. -/
theorem test_bicubic_same_size :
    bytesOf (after (accepted (ops (desc 0 4 1 4 0) (desc 0x1000 4 1 4 0)) (bytesAt 0 [0, 0, 255, 255] []) 0x25)) 0x1000 4 =
      [0, 0, 127, 255] := by decide +kernel

/-- V7: 16-bit lanes are refused, before the shapes are checked. -/
theorem test_bicubic_refuses_rgb48 :
    statusOf (after (accepted (ops (desc 0 2 1 12 4) (desc 0x1000 0 1 24 4)) [] 0x25)) = 0x00000206 := by decide

/-- V8: the sharpen kernel on 3x3, words little-endian and signed, results clamped at both ends (P3). -/
theorem test_convolve_sharpen :
    bytesOf (after (accepted { ops (desc 0x5000 3 3 3 0) (desc 0x6000 3 3 3 0) with kernelBase := 0x4000 }
      (bytesAt 0x5000 [10, 20, 30, 40, 50, 60, 70, 80, 90] (wordsAt 0x4000 [0, -1, 0, -1, 5, -1, 0, -1, 0] [])) 0x00030406))
      0x6000 9 = [0, 10, 70, 70, 50, 130, 230, 190, 255] := by decide +kernel

/-- V8: explicit divisor, toward zero, then the threshold; -7 div 2 = -3. -/
theorem test_convolve_divides_toward_zero :
    bytesOf (after (accepted
      { ops (desc 0 1 1 1 0) (desc 0x1000 1 1 1 0) with kernelBase := 0x800, divisor := 2, threshold := 10 }
      (bytesAt 0 [1] (wordsAt 0x800 [0, 0, 0, 0, -7, 0, 0, 0, 0] [])) 0x00030006)) 0x1000 1 = [7] := by decide +kernel

/-- V9: a bright corner; the sum at the corner itself is negative and clamps to 0. -/
theorem test_detectBlur_corner :
    let t := after (accepted { ops (desc 0 3 3 3 0) (desc 0x1000 3 3 3 0) with edgeThreshold := 1 }
      (bytesAt 8 [50] []) 7)
    bytesOf t 0x1000 9 = [0, 0, 0, 0, 0, 50, 0, 50, 0] ∧ t.readReg .maxGradient = 50 ∧ t.readReg .blurResult = 2 := by
  decide +kernel

/-- V9: the alpha lane is copied and does not count; a maximum below the threshold is blurred. -/
theorem test_detectBlur_alpha :
    let t := after (accepted { ops (desc 0 2 2 8 3) (desc 0x1000 2 2 8 3) with edgeThreshold := 1 }
      (bytesAt 0 [5, 5, 5, 0, 5, 5, 5, 255, 5, 5, 5, 9, 5, 5, 5, 0] []) 7)
    bytesOf t 0x1000 16 = [0, 0, 0, 0, 0, 0, 0, 255, 0, 0, 0, 9, 0, 0, 0, 0] ∧ t.readReg .maxGradient = 0 ∧
      t.readReg .blurResult = 3 := by
  decide +kernel

/-! ## Errors, registers, the host's assembly -/

/-- V2: an illegal word ends with INVALID_COMMAND and leaves BLUR_RESULT alone. -/
theorem test_illegal_word :
    let t := after { accepted Operands.reset [] 0x17 with blurValid := true }
    statusOf t = 0x00000606 ∧ t.readReg .blurResult = 2 := by decide

/-- V10: a refused pixel byte; PIX_B keeps its value. -/
theorem test_bus_error_getPixel :
    let t := after { accepted { ops (desc 0x80000000 1 1 1 0) (desc 0 0 0 0 0) with pixB := 7 } [] 2 with
      platform := { regBase := 0, refused := [{ first := 0x80000000, last := 0xFFFFFFFF, refusesRead := true, refusesWrite := true }] } }
    statusOf t = 0x00000706 ∧ t.readReg .errInfo = 0x80000000 ∧ t.readReg .pixB = 7 := by decide

/-- R125: the luma examples of V4. -/
theorem test_luma : [luma 255 0 0 255, luma 43 43 43 255, luma 100 150 200 255] = [54, 42, 142] := by decide +kernel

/-- V7: the values of K, each exact. -/
theorem test_cubicKernel :
    [0, 1 / 4, 1 / 2, 3 / 4, 1, 5 / 4, 3 / 2, 7 / 4, 2].map cubicKernel =
      [1, 0.8671875, 0.5625, 0.2265625, 0, -0.0703125, -0.0625, -0.0234375, 0] := by decide +kernel

/-- V6: the factor 2/3 and the position 1 · 2/3 in binary64 are 0.6666666666666666. -/
theorem test_factor : factor 2 3 = 6004799503160661 / 2 ^ 53 := by decide +kernel

/-- V1.4, V1.5: reserved bits of a register read 0. -/
theorem test_register_reserved_bits :
    (State.reset.writeReg .srcFmt 0xFFFFFFFF).readReg .srcFmt = 7 ∧
      (State.reset.writeReg .pixB 0x00012345).readReg .pixB = 0x00002345 := by decide

/-- V1.13: a write while BUSY is ignored and sets OVR. -/
theorem test_busy_write :
    let t := (accepted Operands.reset [] 0).writeReg .srcBase 5
    statusOf t = 0x00000009 ∧ t.readReg .srcBase = 0 := by decide

/-- V1.8: SOFT_RESET wins over START and IRQ_EN. -/
theorem test_soft_reset_wins :
    let t := ({ State.reset with irqEn := true } : State).writeReg .ctrl 7
    t.readReg .ctrl = 0 ∧ statusOf t = 0 ∧ t.engine = .idle := by decide

/-- V1.11: ERR and ERR_CODE are cleared together, DONE stays. -/
theorem test_acknowledge_error :
    statusOf ((State.reset.endedWith .sizeMismatch).writeReg .status 4) = 0x00000002 := by decide

/-- P1, transactions 1 to 5 and 12: the assembly's bus accesses. -/
theorem test_asm :
    asmDst 0 0x1000 2 2 8 3 ++ asmXY 0 1 1 ++ asmWait 0 =
      [.regWrite 0x030 4 0x00001000, .regWrite 0x034 4 0x00020002, .regWrite 0x038 4 0x00000008,
        .regWrite 0x03C 4 0x00000003, .regWrite 0x050 4 0x00010001, .poll 0x008 2 2] := by decide

/-- R104: `(h<<16)|w` where w is wider than 16 bits. -/
theorem test_packHalves : packHalves 0x10000 1 = 0x00010000 ∧ packHalves 2 3 = 0x00030002 := by decide

/-- P4, transactions 10 and 11: `go blur, irq`; P3, transaction 11: `go conv 3, auto`. -/
theorem test_asm_go :
    asmGo 0 .detectBlur true = [.regWrite 0x00C 4 0x00000007, .regWrite 0x004 4 0x00000005] ∧
      asmGo 0 (.convolve 3 false false true) false = [.regWrite 0x00C 4 0x00030406, .regWrite 0x004 4 0x00000001] := by
  decide

/-! ## For each statement, states and operands that meet all its hypotheses -/

/-- A 2 by 1 buffer at an address, with the stride and the format given. -/
def buf (base stride : Nat) (f : Format) : Buffer := { base := base, width := 2, height := 1, stride := stride, fmt := f }

/-- A command accepted over GRAY8 buffers of 2 by 1 at 0x100 (stride 2) and 0x200 (stride 3), the kernel at 0x1000. -/
def sample (w : Nat) : State :=
  accepted { ops (desc 0x100 2 1 2 0) (desc 0x200 2 1 3 0) with kernelBase := 0x1000, divisor := 1 } [] w

/-- The same over buffers of one format, with strides that fit it, PIX_XY at the last pixel. -/
def sampleOf (fmt : Nat) (w : Nat) : State :=
  accepted { ops (desc 0x100 2 1 16 fmt) (desc 0x200 2 1 16 fmt) with pixXY := 0x00000001 } [] w

/-- A state with one host event to come. -/
def withEvent (s : State) (i : Input) : State := { s with inputs := [i] }

/-- A platform that refuses every access to one address. -/
def refusing (a : Nat) : Platform :=
  { regBase := 0, refused := [{ first := a, last := a, refusesRead := true, refusesWrite := true }] }

theorem sample_admits (w : Nat) (k : AccessKind) (a : Nat) : memOK (sample w).platform k a = true := rfl

theorem sampleOf_admits (f w : Nat) (k : AccessKind) (a : Nat) : memOK (sampleOf f w).platform k a = true := rfl

theorem witness_DecodeOfEncode : (Instr.convolve 127 true false true).wellFormed = true := by decide

theorem witness_EncodeOfDecode : decode 0x00630706 = .ok (.convolve 99 true true true) := by decide

/-- One word of each kind of R98, accepted. -/
theorem witness_IllegalWordsRaiseInvalidCommand :
    ∀ w ∈ [0x8, 0xF, 0x35, 0x14, 0x17, 0x45, 0x16, 0x806, 0x00800006, 0x80000006],
      (sample w).inputs = [] ∧ (∃ l b e, (sample w).engine = .busy l b ∧ l.cmd = BitVec.ofNat 32 w ∧
        decode (BitVec.ofNat 32 w) = .error e) := by
  intro w hw
  fin_cases hw <;> exact ⟨rfl, _, _, _, rfl, rfl, rfl⟩

theorem witness_StepRunsDecodedCommand :
    (∃ l b, (sample 7).engine = .busy l b ∧ decode l.cmd = .ok .detectBlur) ∧ (sample 7).inputs = [] ∧
      State.reset.engine = .idle ∧ (withEvent (sample 4) .engineTurn).inputs = [.engineTurn] ∧
      (let s := withEvent (sample 4) (.poll 0x008 2 2);
        s.resetAsserted = false ∧ s.inputs = [.poll (s.platform.regBase + Reg.status.offset) 2 2] ∧
          s.readReg .status &&& 2 ≠ 2) :=
  ⟨⟨_, _, rfl, rfl⟩, rfl, rfl, rfl, by decide⟩

theorem witness_DefinedEventsNeverStop :
    ∀ i ∈ ([.regRead 0x07C 4, .regWrite 0x000 4 1, .poll 0x008 2 2, .memRead (2 ^ 32 - 1), .memWrite 0 1, .resetAssert,
        .resetRelease, .engineTurn] : List Input), i.defined (withEvent State.reset i) := by
  intro i hi
  fin_cases hi <;> simp [Input.defined, State.definedAccess, withEvent, State.reset]

theorem witness_NopOnlyCompletes : (sample 0).breach = Breach.none := by decide

theorem witness_ClearZeroFillsRegion :
    (sample 1).mem.wf = true ∧ (sample 1).breach = Breach.none ∧ (sample 1).latched.dst.names (buf 0x200 3 .gray8) ∧
      ∀ a, 0x200 ≤ a → a < (buf 0x200 3 .gray8).limit → memOK (sample 1).platform .write a = true :=
  ⟨by decide, by decide, by decide, fun _ _ _ => rfl⟩

/-- A pixel of one lane, of three and of four. -/
theorem witness_GetPixelReadsLanes :
    ∀ c ∈ [(0, Format.gray8), (4, Format.rgb48), (5, Format.argb64)],
      (sampleOf c.1 2).breach = Breach.none ∧ (sampleOf c.1 2).latched.src.names (buf 0x100 16 c.2) ∧
        bits (sampleOf c.1 2).latched.pixXY 15 0 < 2 ∧ bits (sampleOf c.1 2).latched.pixXY 31 16 < 1 ∧
        ∀ i, i < c.2.bpp → memOK (sampleOf c.1 2).platform .read ((buf 0x100 16 c.2).pixAddr 1 0 + i) = true := by
  intro c hc
  fin_cases hc <;> exact ⟨by decide, by decide, by decide, by decide, fun _ _ => rfl⟩

/-- A pixel of one lane, of three and of four. -/
theorem witness_SetPixelWritesLanes :
    ∀ c ∈ [(1, Format.gray16), (2, Format.rgb24), (3, Format.rgb32)],
      (sampleOf c.1 3).mem.wf = true ∧ (sampleOf c.1 3).breach = Breach.none ∧
        (sampleOf c.1 3).latched.dst.names (buf 0x200 16 c.2) ∧
        bits (sampleOf c.1 3).latched.pixXY 15 0 < 2 ∧ bits (sampleOf c.1 3).latched.pixXY 31 16 < 1 ∧
        ∀ i, i < c.2.bpp → memOK (sampleOf c.1 3).platform .write ((buf 0x200 16 c.2).pixAddr 1 0 + i) = true := by
  intro c hc
  fin_cases hc <;> exact ⟨by decide, by decide, by decide, by decide, by decide, fun _ _ => rfl⟩

theorem witness_LumaClampNeverBinds :
    ((255 = 255 ∨ 255 = 65535) ∧ 255 ≤ 255 ∧ 0 ≤ 255) ∧ ((65535 = 255 ∨ 65535 = 65535) ∧ 65535 ≤ 65535 ∧ 0 ≤ 65535) := by
  decide

theorem witness_CopyCopiesRows :
    (sample 4).mem.wf = true ∧ (sample 4).breach = Breach.none ∧ (sample 4).latched.src.names (buf 0x100 2 .gray8) ∧
      (sample 4).latched.dst.names (buf 0x200 3 .gray8) ∧ (buf 0x100 2 .gray8).apart (buf 0x200 3 .gray8) ∧
      ∀ y, y < 1 → ∀ i, i < min 2 3 →
        memOK (sample 4).platform .read (0x100 + y * 2 + i) = true ∧
          memOK (sample 4).platform .write (0x200 + y * 3 + i) = true :=
  ⟨by decide, by decide, by decide, by decide, by decide, fun _ _ _ _ => ⟨rfl, rfl⟩⟩

/-- The hypotheses of the three RESAMPLE statements, of SameSizeResampleIsIdentity and of DetectBlurMeasuresGradient: the
buffers have one size and one 8-bit format and lie apart, and every access to any address is admitted. -/
theorem witness_resample_and_blur :
    ∀ w ∈ [0x05, 0x15, 0x25, 0x07],
      (sample w).mem.wf = true ∧ (sample w).breach = Breach.none ∧ (sample w).latched.src.names (buf 0x100 2 .gray8) ∧
        (sample w).latched.dst.names (buf 0x200 3 .gray8) ∧ (buf 0x100 2 .gray8).fmt.lw = 8 ∧
        (buf 0x100 2 .gray8).apart (buf 0x200 3 .gray8) ∧ (sample w).admitsPixels .read (buf 0x100 2 .gray8) ∧
        (sample w).admitsPixels .write (buf 0x200 3 .gray8) ∧ ∀ k a, memOK (sample w).platform k a = true := by
  intro w hw
  fin_cases hw <;>
    exact ⟨by decide, by decide, by decide, by decide, by decide, by decide, fun _ _ _ _ _ _ => rfl,
      fun _ _ _ _ _ _ => rfl, fun _ _ => rfl⟩

theorem witness_SampleIndexInSource :
    (0 < 1 ∧ 1 ≤ 65535 ∧ 0 < 1) ∧ (0 < 65535 ∧ 65535 ≤ 65535 ∧ 65534 < 65535) := by decide

theorem witness_BilinearByteNearConvex : 0 < 1 ∧ 65535 ≤ 65535 ∧ 6 < 7 ∧ 7 ≤ 65535 := by decide

/-- A binary64 value, and an exact tie. -/
theorem witness_RoundingIsNearestEven :
    IsBinary64 1 ∧ (2 ^ 53 + 1 : ℚ) = (((2 ^ 52 : Int) : ℚ) + 1 / 2) * ulp64 (2 ^ 53 + 1) :=
  ⟨⟨1, 0, by norm_num, by norm_num, by norm_num⟩, by decide +kernel⟩

/-- The least and the greatest kernel, with the default divisor and without. -/
theorem witness_ConvolveFiltersLanes :
    (∀ k ∈ [3, 99], k % 2 = 1 ∧ 3 ≤ k ∧ k ≤ 99 ∧ (sample 6).latched.kernelBase.toNat + 4 * k * k ≤ 2 ^ 32 ∧
      (buf 0x200 3 .gray8).limit ≤ (sample 6).latched.kernelBase.toNat) ∧ (sample 6).latched.divisor ≠ 0 ∧
      (sample 6).mem.wf = true ∧ (sample 6).breach = Breach.none ∧
      (sample 6).latched.src.names (buf 0x100 2 .gray8) ∧ (sample 6).latched.dst.names (buf 0x200 3 .gray8) ∧
      (buf 0x100 2 .gray8).apart (buf 0x200 3 .gray8) ∧
      (∀ n, n < 4 * 99 * 99 → memOK (sample 6).platform .read (0x1000 + n) = true) ∧
      (sample 6).admitsPixels .read (buf 0x100 2 .gray8) ∧ (sample 6).admitsPixels .write (buf 0x200 3 .gray8) :=
  ⟨by decide, by decide, by decide, by decide, by decide, by decide, by decide, fun _ _ => rfl,
    fun _ _ _ _ _ _ => rfl, fun _ _ _ _ _ _ => rfl⟩

theorem witness_ConvolutionFitsAccumulator : 99 ≤ 99 := by decide

/-- A kernel of ones with the default divisor. -/
def ones (dynDiv : Bool) : Kernel :=
  { size := 3, weight := fun _ _ => 1, divisor := 9, threshold := 0, dynDiv := dynDiv, procAlpha := false }

/-- A 3 by 3 image of value 10 at address 0. -/
def uniformImage : Buffer := { base := 0, width := 3, height := 3, stride := 3, fmt := .gray8 }

/-- The bytes of `uniformImage`. -/
def uniformMem : Memory := bytesAt 0 (List.replicate 9 10) []

/-- E8: the corner is 4 without the dynamic divisor and 10 with it. -/
theorem witness_DynamicDivisorOnlyWhereClipped :
    convolveLane uniformImage { ones true with dynDiv := true } uniformMem 0 0 0 ≠
        convolveLane uniformImage { ones true with dynDiv := false } uniformMem 0 0 0 ∧
      ¬ clippedWindow uniformImage (ones true).size 1 1 := by decide

theorem witness_UniformImageConvolution :
    (∀ x, x < uniformImage.width → ∀ y, y < uniformImage.height → uniformImage.laneRead uniformMem x y 0 = 10) ∧
      ¬ clippedWindow uniformImage (ones true).size 1 1 ∧ (ones true).dynDiv = true ∧ (ones true).threshold = 0 ∧
      (ones true).divisor = chosenDivisor (ones true).size (ones true).weight true 0 ∧
      ∀ x, x < uniformImage.width → ∀ y, y < uniformImage.height →
        cellWeights uniformImage (ones true).size (ones true).weight x y ≠ 0 := by
  decide +kernel

theorem witness_UniformImageHasZeroGradient :
    ∀ l, l < uniformImage.fmt.nlanes → uniformImage.fmt.isAlpha l = false →
      ∃ v, ∀ x, x < uniformImage.width → ∀ y, y < uniformImage.height → uniformImage.laneRead uniformMem x y l = v := by
  intro l hl _
  obtain rfl : l = 0 := by simpa [uniformImage, Format.nlanes] using hl
  exact ⟨10, by decide +kernel⟩

/-- The operand checks of CLEAR: each error, the format standing first. -/
theorem witness_ClearChecksOperands :
    let first (d : Descriptor) := firstError [(d.badFormat, .unsupportedFormat), (d.badShape, .sizeMismatch)]
    first (accepted (ops (desc 0 0 0 0 0) (desc 0x1000 0 0 0 7)) [] 1).latched.dst = some .unsupportedFormat ∧
      first (accepted (ops (desc 0 0 0 0 0) (desc 0xFFFFFFF0 4 2 16 0)) [] 1).latched.dst = some .sizeMismatch := by
  decide

/-- V4: each check of a pixel command, the shape standing before the coordinates. -/
theorem witness_PixelCommandsCheckOperands :
    let first (d : Descriptor) (xy : Word) :=
      firstError
        [ (d.badFormat, .unsupportedFormat), (d.badShape, .sizeMismatch),
          (decide (bits d.size 15 0 ≤ bits xy 15 0) || decide (bits d.size 31 16 ≤ bits xy 31 16), .outOfRange) ]
    first (desc 0 2 1 2 6) 0 = some .unsupportedFormat ∧ first (desc 0 0 1 2 0) 5 = some .sizeMismatch ∧
      first (desc 0 2 1 2 0) 2 = some .outOfRange ∧ first (desc 0 2 1 2 0) 0x00010000 = some .outOfRange := by
  decide

theorem witness_CopyAndBlurCheckOperands :
    let first (a b : Descriptor) :=
      firstError
        [ (a.badFormat, .unsupportedFormat), (b.badFormat, .unsupportedFormat), (a.badShape, .sizeMismatch),
          (b.badShape, .sizeMismatch), (decide (a.size ≠ b.size) || decide (a.fmt ≠ b.fmt), .sizeMismatch) ]
    first (desc 0 0 0 0 6) (desc 0 0 0 0 0) = some .unsupportedFormat ∧
      first (desc 0 0 0 0 0) (desc 0 0 0 0 7) = some .unsupportedFormat ∧
      first (desc 0 0 1 1 0) (desc 0x1000 1 1 1 0) = some .sizeMismatch ∧
      first (desc 0 5 5 5 0) (desc 0x1000 4 5 5 0) = some .sizeMismatch := by
  decide

/-- V7: bicubic refuses 16-bit lanes before the shapes; the formats must be equal. -/
theorem witness_ResampleChecksOperands :
    let first (i : Instr) (a b : Descriptor) :=
      firstError
        [ (a.badFormat, .unsupportedFormat), (b.badFormat, .unsupportedFormat),
          (decide (i = .resampleBicubic) && decide (a.fmt.toNat ∈ [1, 4, 5]), .unsupportedFormat),
          (a.badShape, .sizeMismatch), (b.badShape, .sizeMismatch), (decide (a.fmt ≠ b.fmt), .sizeMismatch) ]
    first .resampleBicubic (desc 0 2 1 12 4) (desc 0x1000 0 1 24 4) = some .unsupportedFormat ∧
      first .resampleNearest (desc 0 2 1 2 6) (desc 0x1000 2 1 2 0) = some .unsupportedFormat ∧
      first .resampleBilinear (desc 0 2 1 2 0) (desc 0x1000 2 1 6 2) = some .sizeMismatch := by
  decide

/-- V8: each error of CONVOLVE at a boundary of its condition. -/
theorem witness_ConvolveChecksOperands :
    let first (a b : Descriptor) (k : Nat) (kbase dv : Word) (divAuto : Bool) :=
      firstError
        [ (a.badFormat, .unsupportedFormat), (b.badFormat, .unsupportedFormat),
          (decide (k % 2 = 0) || decide (k < 3) || decide (99 < k), .invalidKernel),
          (decide (2 ^ 32 < kbase.toNat + 4 * k * k), .invalidKernel), (!divAuto && decide (dv = 0), .invalidDivisor),
          (a.badShape, .sizeMismatch), (b.badShape, .sizeMismatch),
          (decide (a.size ≠ b.size) || decide (a.fmt ≠ b.fmt), .sizeMismatch) ]
    let d := desc 0x1000 3 3 3 0
    first (desc 0 3 3 3 6) d 4 0x800 0 true = some .unsupportedFormat ∧ first d d 1 0x800 0 true = some .invalidKernel ∧
      first d d 101 0x800 0 true = some .invalidKernel ∧ first d d 3 0xFFFFFFE0 0 true = some .invalidKernel ∧
      first d d 3 0xFFFFFFDC 0 true = none ∧ first d (desc 0 2 3 3 0) 3 0x800 0 false = some .invalidDivisor ∧
      first d (desc 0 2 3 3 0) 3 0x800 0 true = some .sizeMismatch := by
  decide

theorem witness_CommandsRaiseOnlyTheirErrors :
    (accepted Operands.reset [] 1).errCode = none ∧
      ∃ t, exec .clear (accepted Operands.reset [] 1) = .next t ∧ t.errCode = some .sizeMismatch :=
  ⟨rfl, _, rfl, by decide⟩

/-- A refused destination byte, a refused source byte, a refused kernel byte. -/
theorem witness_RefusedAccessIsBusError :
    ∀ c ∈ [(Instr.clear, 0x202), (Instr.copy, 0x100), (Instr.convolve 3 false false true, 0x1023),
        (Instr.convolve 3 false false true, 0x101)],
      let s : State := { sample 0 with platform := refusing c.2 }
      s.mem.wf = true ∧ ∃ p, commandPlan c.1 s.latched = .ok p ∧
        ((∃ a ∈ p.kernelReads ++ p.reads, memOK s.platform .read a = false) ∨
          ∃ a ∈ p.writes, memOK s.platform .write a = false) := by
  intro c hc
  fin_cases hc
  · exact ⟨by decide, _, rfl, .inr ⟨0x202, by decide, by decide⟩⟩
  · exact ⟨by decide, _, rfl, .inl ⟨0x100, by decide, by decide⟩⟩
  · exact ⟨by decide, _, rfl, .inl ⟨0x1023, by decide +kernel, by decide⟩⟩
  · exact ⟨by decide, _, rfl, .inl ⟨0x101, by decide +kernel, by decide⟩⟩

/-- The last byte of the kernel is refused. -/
theorem witness_RefusedKernelWordLeavesMemory :
    let s : State := { sample 0 with platform := refusing 0x1023 }
    35 < 4 * 3 * 3 ∧ memOK s.platform .read (s.latched.kernelBase.toNat + 35) = false ∧
      ∃ p, commandPlan (.convolve 3 false false true) s.latched = .ok p ∧
        (∀ a ∈ p.reads, memOK s.platform .read a = true) ∧ ∀ a ∈ p.writes, memOK s.platform .write a = true :=
  ⟨by decide, by decide, _, rfl, by decide +kernel, by decide +kernel⟩

theorem witness_ResultRegistersWrittenOnlyBySuccess :
    (∃ t, exec .nop (sample 0) = .next t) ∧ (accepted Operands.reset [] 2).errCode = none ∧
      ∃ t, exec .getPixel (accepted Operands.reset [] 2) = .next t ∧ t.errCode ≠ none :=
  ⟨⟨_, rfl⟩, rfl, _, rfl, by decide⟩

/-- A CLEAR in progress whose first destination byte the host has written. -/
theorem witness_CommandKeepsOtherBytes :
    let s := (sample 1).withBreach { sourceWritten := false, destWritten := [0x200] }
    s.mem.wf = true ∧ ∃ p, commandPlan .clear s.latched = .ok p ∧ (∀ a ∈ s.breach.destWritten, a ∈ p.mayChange) ∧
      (∃ t, exec .clear s = .next t) ∧ 0x203 ∉ p.mayChange :=
  ⟨by decide, _, rfl, by decide, ⟨_, rfl⟩, by decide⟩

theorem witness_StoresStayInDestination :
    (∃ p, commandPlan .clear (sample 1).latched = .ok p ∧ 0x200 ∈ p.writes ∧ 0x202 ∈ p.writes) ∧
      ∃ p, commandPlan .detectBlur (sample 7).latched = .ok p ∧ (sample 7).latched.dst.names (buf 0x200 3 .gray8) ∧
        hasTwoBuffers .detectBlur = true ∧ Instr.detectBlur ≠ .clear ∧ Instr.detectBlur ≠ .copy ∧ 0x201 ∈ p.writes ∧
        (buf 0x200 3 .gray8).isPixelByte 0x201 :=
  ⟨⟨_, rfl, by decide, by decide⟩, _, rfl, by decide, rfl, by decide, by decide, by decide, by decide⟩

theorem witness_ReadsStayInSource :
    (∃ p, commandPlan .copy (sample 4).latched = .ok p ∧ 0x101 ∈ p.reads) ∧
      ∃ p, commandPlan (.convolve 3 false false true) (sample 6).latched = .ok p ∧ 0x101 ∈ p.reads ∧
        0x1023 ∈ p.kernelReads :=
  ⟨⟨_, rfl, by decide⟩, ⟨_, rfl, by decide, by decide +kernel⟩⟩

/-- COPY onto a destination that starts at the source's last byte: one byte is shared. -/
def overlapping (w : Nat) : State := accepted (ops (desc 0x100 2 1 2 0) (desc 0x101 2 1 2 0)) [] w

theorem witness_OverlapIsSharedByte :
    (hasTwoBuffers .clear = false ∧ ∃ p, commandPlan .clear (sample 1).latched = .ok p) ∧
      (hasTwoBuffers .copy = true ∧
        (∃ p, commandPlan .copy (overlapping 4).latched = .ok p ∧ p.overlaps = true ∧ 0x101 ∈ p.overlapped ∧
          0x100 ∉ p.overlapped ∧ 0x102 ∉ p.overlapped) ∧
        (overlapping 4).latched.src.names (buf 0x100 2 .gray8) ∧ (overlapping 4).latched.dst.names (buf 0x101 2 .gray8)) ∧
      hasTwoBuffers (.convolve 3 false false true) = true ∧
      ∃ p, commandPlan (.convolve 3 false false true) (sample 6).latched = .ok p ∧ p.overlaps = false :=
  ⟨⟨rfl, _, rfl⟩, ⟨rfl, ⟨_, rfl, by decide, by decide, by decide, by decide⟩, by decide, by decide⟩, rfl, _, rfl, by decide⟩

theorem witness_UnspecifiedOutputStillEnds :
    (overlapping 7).mem.wf = true ∧ (∃ p, commandPlan .detectBlur (overlapping 7).latched = .ok p ∧ p.overlaps = true ∧
        ∀ k a, memOK (overlapping 7).platform k a = true) ∧
      (overlapping 7).latched.src.names (buf 0x100 2 .gray8) ∧
      ((sample 4).withBreach { sourceWritten := true, destWritten := [] }).breach.sourceWritten = true ∧
      (let s := (sample 4).withBreach { sourceWritten := false, destWritten := [0x200] };
        s.mem.wf = true ∧ s.breach.sourceWritten = false ∧ 0x201 ∉ s.breach.destWritten ∧
          ∃ p, commandPlan .copy s.latched = .ok p ∧ p.overlaps = false ∧ ∀ k a, memOK s.platform k a = true) :=
  ⟨by decide, ⟨_, rfl, by decide, fun _ _ => rfl⟩, by decide, rfl, by decide, rfl, by decide, _, rfl, by decide,
    fun _ _ => rfl⟩

theorem witness_RegisterReadReturnsValue :
    (withEvent State.reset (.regRead 0x068 4)).resetAsserted = false ∧
      (withEvent State.reset (.regRead 0x068 4)).inputs =
        [.regRead (State.reset.platform.regBase + Reg.maxGradient.offset) 4] := by
  decide

theorem witness_ReservedOffsetsIgnoreWrites :
    (withEvent (sample 0) (.regRead 0x07C 4)).resetAsserted = false ∧
      (withEvent (sample 0) (.regRead 0x07C 4)).inputs = [.regRead ((sample 0).platform.regBase + 0x07C) 4] ∧
      (withEvent State.reset (.regWrite 0x014 4 1)).resetAsserted = false ∧
      (withEvent State.reset (.regWrite 0x014 4 1)).inputs = [.regWrite (State.reset.platform.regBase + 0x014) 4 1] := by
  decide

theorem witness_OperandWriteReadsBack :
    let s := withEvent State.reset (.regWrite 0x02C 4 0xFFFFFFFF)
    s.resetAsserted = false ∧ s.engine = .idle ∧ Reg.srcFmt.isOperand = true ∧
      s.inputs = [.regWrite (s.platform.regBase + Reg.srcFmt.offset) 4 0xFFFFFFFF] := by
  decide

theorem witness_BusyWritesAreIgnored :
    (let s := withEvent (sample 0) (.regWrite 0x00C 4 7);
      s.resetAsserted = false ∧ s.busy = true ∧ s.inputs = [.regWrite (s.platform.regBase + Reg.cmd.offset) 4 7] ∧
        Reg.cmd.isOperand = true) ∧
      (let s := withEvent State.reset (.regWrite 0x068 4 7);
        s.resetAsserted = false ∧ s.busy = false ∧
          s.inputs = [.regWrite (s.platform.regBase + Reg.maxGradient.offset) 4 7]) := by
  decide

/-- START while IDLE, START while BUSY, no START. -/
theorem witness_ControlWriteStartsCommand :
    (let s := withEvent State.reset (.regWrite 0x004 4 5);
      s.resetAsserted = false ∧ bit 5 1 = false ∧ bit 5 0 = true ∧ s.engine = .idle ∧
        s.inputs = [.regWrite (s.platform.regBase + 0x004) 4 5]) ∧
      (let s := withEvent (sample 7) (.regWrite 0x004 4 1);
        s.resetAsserted = false ∧ s.busy = true ∧ s.inputs = [.regWrite (s.platform.regBase + 0x004) 4 1]) ∧
      bit 4 1 = false ∧ bit 4 0 = false := by
  decide

theorem witness_StatusWriteClearsBits :
    let s := withEvent State.reset (.regWrite 0x008 4 0xE)
    s.resetAsserted = false ∧ s.inputs = [.regWrite (s.platform.regBase + 0x008) 4 0xE] := by
  decide

/-- OVR cleared by each of its three events; OVR set by each of its two. -/
theorem witness_OverrunIsSticky :
    (∀ i ∈ ([.resetAssert, .regWrite 0x008 4 8, .regWrite 0x004 4 2] : List Input),
      let s := withEvent { State.reset with ovr := true } i
      ∃ t, step s = .next t ∧ s.ovr = true ∧ t.ovr = false) ∧
      ∀ i ∈ ([.regWrite 0x004 4 1, .regWrite 0x060 4 0] : List Input),
        ∃ t, step (withEvent (sample 0) i) = .next t ∧ (withEvent (sample 0) i).ovr = false ∧ t.ovr = true := by
  constructor <;> intro i hi <;> fin_cases hi <;> exact ⟨_, rfl, rfl, rfl⟩

theorem witness_EngineStartsOnlyByStart :
    ∃ t, step (withEvent State.reset (.regWrite 0x004 4 1)) = .next t ∧ State.reset.engine = .idle ∧ t.engine ≠ .idle :=
  ⟨_, rfl, rfl, by decide⟩

/-- A poll that is satisfied and one that is not. -/
theorem witness_PollRepeatsUntilMatch :
    (let s := withEvent (sample 0) (.poll 0x008 2 2);
      s.resetAsserted = false ∧ s.inputs = [.poll (s.platform.regBase + Reg.status.offset) 2 2] ∧
        s.readReg .status &&& 2 ≠ 2) ∧
      (let s := withEvent (sample 0) (.poll 0x008 1 1);
        s.inputs = [.poll (s.platform.regBase + Reg.status.offset) 1 1] ∧ s.readReg .status &&& 1 = 1) := by
  decide

/-- Each way an access is undefined: narrow, misaligned, above the block, in reset. -/
theorem witness_UndefinedAccessIsRefused :
    (¬ State.reset.definedAccess 0x000 2 ∧ ¬ State.reset.definedAccess 0x002 4 ∧ ¬ State.reset.definedAccess 0x080 4 ∧
      State.reset.definedAccess 0x07C 4) ∧
      ¬ ({ State.reset with resetAsserted := true } : State).definedAccess 0x000 4 ∧
      (withEvent State.reset (.regRead 0x000 2)).inputs = [.regRead 0x000 2] ∧
      (withEvent State.reset (.poll 0x080 0 0)).inputs = [.poll 0x080 0 0] := by
  decide

/-- A soft reset while a CLEAR is in progress, and the reset input. -/
theorem witness_ResetsClearRegisters :
    (let s := withEvent (sample 1) (.regWrite 0x004 4 2);
      s.mem.wf = true ∧ s.resetAsserted = false ∧ bit 2 1 = true ∧
        s.inputs = [.regWrite (s.platform.regBase + 0x004) 4 2] ∧ 0x203 ∉ s.mayChange) ∧
      (withEvent State.reset .resetAssert).inputs = [.resetAssert] := by
  decide

/-- The last clause of ResetsClearRegisters: the input is about to be released. -/
theorem witness_ResetsClearRegisters_release :
    let s := withEvent { State.reset with resetAsserted := true } .resetRelease
    s.inputs = [.resetRelease] ∧ s.Inv ∧ s.resetAsserted = true :=
  ⟨rfl,
    { memCanonical := by decide
      memInSpace := by decide
      errHasCode := by decide
      busyNotEnded := by decide
      blurredIsValid := by decide
      infoOnlyForBus := fun _ he => nomatch he
      heldInReset := fun _ => rfl
      breachInSpace := by decide },
    rfl⟩

/-- The invariant holds of a state with a command in progress, which has a next state. -/
theorem witness_StepKeepsInvariant : (sample 0).Inv ∧ ∃ t, step (sample 0) = .next t :=
  ⟨{ memCanonical := by decide
     memInSpace := by decide
     errHasCode := by decide
     busyNotEnded := by decide
     blurredIsValid := by decide
     infoOnlyForBus := fun _ he => nomatch he
     heldInReset := by decide
     breachInSpace := by decide },
    _, rfl⟩

theorem witness_StepKeepsPlatform : ∃ t, step (withEvent State.reset (.regRead 0x000 4)) = .next t ∧ t.outputs ≠ [] :=
  ⟨_, rfl, by decide⟩

/-- The last byte of memory, and the first address that does not exist. -/
theorem witness_HostMemoryAccessWhileIdle :
    State.reset.mem.wf = true ∧ State.reset.engine = .idle ∧ 2 ^ 32 - 1 < 2 ^ 32 ∧
      (withEvent State.reset (.memRead (2 ^ 32 - 1))).inputs = [.memRead (2 ^ 32 - 1)] ∧
      (withEvent State.reset (.memWrite (2 ^ 32 - 1) 5)).inputs = [.memWrite (2 ^ 32 - 1) 5] ∧
      (withEvent State.reset (.memRead (2 ^ 32))).inputs = [.memRead (2 ^ 32)] := by
  decide

/-- While a COPY is in progress: the host writes a destination byte, a source byte, and one of neither. -/
theorem witness_HostMemoryAccessWhileBusy :
    (∃ l b, (sample 4).engine = .busy l b) ∧ (sample 4).mem.wf = true ∧ 0x200 ∈ (sample 4).mayChange ∧
      0x100 ∉ (sample 4).mayChange ∧ 0x100 ∈ (sample 4).mayRead ∧ 0x300 ∉ (sample 4).mayChange ∧ 0x300 ∉ (sample 4).mayRead ∧
      (withEvent (sample 4) (.memWrite 0x200 1)).inputs = [.memWrite 0x200 1] ∧
      (withEvent (sample 4) (.memRead 0x300)).inputs = [.memRead 0x300] :=
  ⟨⟨_, _, rfl⟩, by decide, by decide, by decide, by decide, by decide, by decide, by decide, by decide⟩

end Sys2Proof.Tests
end

section
/-! The platform and what reads have returned, operation by operation (00_scope.md R6; logs 3 and 5): a command and a
register write keep both, and only a read appends to the outputs. -/

namespace Sys2Proof.Machine

/-! ### A command keeps the platform and the outputs -/

@[simp] theorem State.writeResult_platform_outputs (s : State) (r : Result) (m : Memory) :
    (s.writeResult r m).platform = s.platform ∧ (s.writeResult r m).outputs = s.outputs := by
  cases r <;> simp [State.writeResult]

@[simp] theorem State.writeFreeResult_platform_outputs (s : State) (r : Result) (reads : List Nat) :
    (s.writeFreeResult r reads).platform = s.platform ∧ (s.writeFreeResult r reads).outputs = s.outputs := by
  cases r <;> simp [State.writeFreeResult]

@[simp] theorem State.spoilWritten_platform_outputs (s : State) (addrs : List Nat) :
    (s.spoilWritten addrs).platform = s.platform ∧ (s.spoilWritten addrs).outputs = s.outputs := by
  cases addrs <;> simp [State.spoilWritten]

@[simp] theorem State.applyPlan_platform_outputs (s : State) (p : Plan) :
    (s.applyPlan p).platform = s.platform ∧ (s.applyPlan p).outputs = s.outputs := by
  unfold State.applyPlan
  split <;> simp

@[simp] theorem State.runPlan_platform_outputs (s : State) (p : Plan) :
    (s.runPlan p).platform = s.platform ∧ (s.runPlan p).outputs = s.outputs := by
  rcases s.runPlan_cases p with ⟨a, -, hrun⟩ | ⟨a, -, hrun⟩ | ⟨-, -, hrun⟩ <;> simp [hrun]

@[simp] theorem State.runCommand_platform_outputs (s : State) (r : Except CmdError Plan) :
    (s.runCommand r).platform = s.platform ∧ (s.runCommand r).outputs = s.outputs := by
  cases r <;> simp

/-- What the engine's turn can do: nothing, run a command, or raise INVALID_COMMAND (30_encoding.md R97, R98). -/
theorem engineTurn_cases {s t : State} (h : engineTurn s = .next t) :
    (s.engine = .idle ∧ t = s) ∨
    ∃ l b, s.engine = .busy l b ∧
      ((∃ i, decode l.cmd = .ok i ∧ t = s.runCommand (commandPlan i s.latched)) ∨
       (∃ e, decode l.cmd = .error e ∧ t = s.raise .invalidCommand 0)) := by
  unfold engineTurn at h
  split at h
  case h_1 hidle =>
    cases h
    exact .inl ⟨hidle, rfl⟩
  case h_2 l b hbusy =>
    refine .inr ⟨l, b, hbusy, ?_⟩
    split at h
    case h_1 i hi =>
      rw [exec_eq_runCommand] at h
      cases h
      exact .inl ⟨i, hi, rfl⟩
    case h_2 e he =>
      cases h
      exact .inr ⟨e, he, rfl⟩

theorem engineTurn_platform_outputs {s t : State} (h : engineTurn s = .next t) :
    t.platform = s.platform ∧ t.outputs = s.outputs := by
  obtain ⟨-, rfl⟩ | ⟨_, _, -, ⟨_, -, rfl⟩ | ⟨_, -, rfl⟩⟩ := engineTurn_cases h
  · exact ⟨rfl, rfl⟩
  · simp
  · simp

/-! ### A register write keeps the platform and the outputs -/

@[simp] theorem State.abort_platform_outputs (s : State) :
    s.abort.platform = s.platform ∧ s.abort.outputs = s.outputs := by
  unfold State.abort
  split <;> simp

@[simp] theorem State.softReset_platform_outputs (s : State) :
    s.softReset.platform = s.platform ∧ s.softReset.outputs = s.outputs := by
  simp [State.softReset]

@[simp] theorem State.writeOperand_platform_outputs (s : State) (r : Reg) (v : Word) :
    (s.writeOperand r v).platform = s.platform ∧ (s.writeOperand r v).outputs = s.outputs := by
  unfold State.writeOperand
  split <;> simp

@[simp] theorem State.writeCtrl_platform_outputs (s : State) (v : Word) :
    (s.writeCtrl v).platform = s.platform ∧ (s.writeCtrl v).outputs = s.outputs := by
  unfold State.writeCtrl
  dsimp only
  split_ifs <;> simp

@[simp] theorem State.writeReg_platform_outputs (s : State) (r : Reg) (v : Word) :
    (s.writeReg r v).platform = s.platform ∧ (s.writeReg r v).outputs = s.outputs := by
  cases r <;> simp [State.writeReg]

@[simp] theorem State.writeOffset_platform_outputs (s : State) (o : Nat) (v : Word) :
    (s.writeOffset o v).platform = s.platform ∧ (s.writeOffset o v).outputs = s.outputs := by
  unfold State.writeOffset
  split <;> simp

/-! ### The host's accesses to data memory -/

@[simp] theorem State.hostWrite_platform_outputs (s : State) (a : Nat) (v : Byte) :
    (s.hostWrite a v).platform = s.platform ∧ (s.hostWrite a v).outputs = s.outputs := by
  unfold State.hostWrite
  dsimp only
  split <;> simp

/-- A host read returns one byte and does nothing else that is seen here. -/
theorem State.hostRead_platform_outputs (s : State) (a : Nat) :
    (s.hostRead a).platform = s.platform ∧ ∃ v, (s.hostRead a).outputs = s.outputs ++ [.byte v] := by
  unfold State.hostRead
  split <;> simp

/-! ### A step -/

/-- A register access that is answered is a defined one, with the reset input released. -/
theorem State.onPort_next {s t : State} {addr bytes : Nat} {effect : Nat → State}
    (h : s.onPort addr bytes effect = .next t) :
    s.resetAsserted = false ∧ ∃ o, s.portOffset addr bytes = some o ∧ t = effect o := by
  unfold State.onPort at h
  split at h
  case isTrue => cases h
  case isFalse hreleased =>
    split at h
    case h_1 => cases h
    case h_2 o ho =>
      cases h
      exact ⟨by simpa using hreleased, o, ho, rfl⟩

/-- An event of the host keeps the platform and takes back nothing that a read has returned. -/
theorem State.hostEvent_platform_outputs {s t : State} {i : Input} (h : s.hostEvent i = .next t) :
    t.platform = s.platform ∧ s.outputs <+: t.outputs := by
  cases i with
  | regRead addr bytes =>
    obtain ⟨-, o, -, rfl⟩ := State.onPort_next h
    simp
  | regWrite addr bytes data =>
    obtain ⟨-, o, -, rfl⟩ := State.onPort_next h
    simp
  | poll addr mask value =>
    obtain ⟨-, o, -, rfl⟩ := State.onPort_next h
    simp
  | memRead addr =>
    simp only [State.hostEvent] at h
    split at h
    · cases h
      obtain ⟨hplatform, v, hout⟩ := s.hostRead_platform_outputs addr
      exact ⟨hplatform, [.byte v], hout.symm⟩
    · cases h
  | memWrite addr data =>
    simp only [State.hostEvent] at h
    split at h
    · cases h
      simp
    · cases h
  | resetAssert =>
    cases h
    simp
  | resetRelease =>
    cases h
    simp
  | engineTurn =>
    cases h
    simp

/-- Whose step it is (log 5): the engine's, from the state as it is or with the event that gives it the turn taken; or the
host's, with the event at the head of the list. -/
theorem State.turn_cases (s : State) :
    s.turn = .engine s ∨
    (∃ rest, s.inputs = .engineTurn :: rest ∧ s.turn = .engine (s.withInputs rest)) ∨
    ∃ i rest, s.inputs = i :: rest ∧ s.turn = .host i (s.withInputs rest) := by
  unfold State.turn
  split
  case h_1 => exact .inl rfl
  case h_2 i rest hin =>
    cases i with
    | engineTurn => exact .inr (.inl ⟨rest, hin, rfl⟩)
    | poll addr mask value =>
      dsimp only
      split
      · exact .inl rfl
      · exact .inr (.inr ⟨_, rest, hin, rfl⟩)
    | _ => exact .inr (.inr ⟨_, rest, hin, rfl⟩)

/-- A step is the engine's turn, from one of two states, or the event of the host at the head of the list. -/
theorem step_cases {s t : State} (h : step s = .next t) :
    engineTurn s = .next t ∨
    (∃ rest, s.inputs = .engineTurn :: rest ∧ engineTurn (s.withInputs rest) = .next t) ∨
    ∃ i rest, s.inputs = i :: rest ∧ (s.withInputs rest).hostEvent i = .next t := by
  obtain hturn | ⟨rest, hin, hturn⟩ | ⟨i, rest, hin, hturn⟩ := s.turn_cases <;> simp only [step, hturn] at h
  · exact .inl h
  · exact .inr (.inl ⟨rest, hin, h⟩)
  · exact .inr (.inr ⟨i, rest, hin, h⟩)

/-- Settles O58: the engine's turn keeps both, and an event of the host at most appends what a read returns. -/
theorem stepKeepsPlatform : Obligations.StepKeepsPlatform := by
  intro s t h
  obtain hengine | ⟨rest, -, hengine⟩ | ⟨i, rest, -, hhost⟩ := step_cases h
  · simp [engineTurn_platform_outputs hengine]
  · simp [engineTurn_platform_outputs hengine]
  · simpa using State.hostEvent_platform_outputs hhost

end Sys2Proof.Machine
end

section
/-! Rounding to binary64 (00_scope.md R9): the rounded value is representable, a nearest one, and the even one of a tie. -/

namespace Sys2Proof.Machine

/-- Two different integers lie 1 apart, so one within one half of a rational is nearest among them all. -/
theorem nearestEven_nearest (x : ℚ) (k : Int) : |(nearestEven x : ℚ) - x| ≤ |(k : ℚ) - x| := by
  by_cases hk : k = nearestEven x
  · rw [hk]
  · have herr := nearestEven_error x
    have hapart : (1 : ℚ) ≤ |(k : ℚ) - nearestEven x| := by
      exact_mod_cast Int.one_le_abs (sub_ne_zero.2 hk)
    have htri := abs_sub_le (k : ℚ) x (nearestEven x)
    rw [abs_sub_comm x] at htri
    linarith

/-- Halfway between two integers, the nearest integer is the even one of them. -/
theorem nearestEven_tie (n : Int) : Even (nearestEven ((n : ℚ) + 1 / 2)) := by
  have hfloor : ((n : ℚ) + 1 / 2).floor = n := show ⌊(n : ℚ) + 1 / 2⌋ = n from
    Int.floor_eq_iff.2 ⟨by linarith, by linarith⟩
  unfold nearestEven
  simp only [hfloor, add_sub_cancel_left, lt_irrefl, if_false]
  split
  case isTrue heven => exact Int.even_iff.2 heven
  case isFalse hodd => exact (Int.not_even_iff_odd.1 (mt Int.even_iff.1 hodd)).add_one

/-- The exponent of the spacing is that of the binade less 52, or the least one. -/
theorem ulp64_eq_zpow (q : ℚ) : ulp64 q = (2 : ℚ) ^ max (binade q - 52) (-1074) := pow2_eq_zpow _

/-- The rounded value is the nearest integer multiple of the spacing, at zero too. -/
theorem round64_eq_mul_ulp64 (q : ℚ) : round64 q = nearestEven (q / ulp64 q) * ulp64 q := by
  unfold round64
  split
  case isTrue h =>
    have hzero : nearestEven 0 = 0 := nearestEven_intCast 0
    simp [h, hzero]
  case isFalse => rfl

/-- Of the multiples of the spacing, none is nearer than the rounded value. -/
theorem round64_nearest_multiple (q : ℚ) (k : Int) : |round64 q - q| ≤ |k * ulp64 q - q| := by
  have hu := ulp64_pos q
  have hscale (n : Int) : |n * ulp64 q - q| = |n - q / ulp64 q| * ulp64 q := by
    rw [← abs_of_pos hu, ← abs_mul, abs_of_pos hu, sub_mul, div_mul_cancel₀ _ hu.ne']
  rw [round64_eq_mul_ulp64, hscale, hscale]
  exact mul_le_mul_of_nonneg_right (nearestEven_nearest _ k) hu.le

/-- A value is less than 2^53 spacings away from zero. -/
theorem abs_lt_ulp64 (q : ℚ) : |q| < 2 ^ 53 * ulp64 q := by
  by_cases hq : q = 0
  · simpa [hq] using ulp64_pos 0
  · refine (binade_spec q hq).2.trans_le ?_
    rw [pow2_eq_zpow, ulp64_eq_zpow, ← zpow_natCast, ← zpow_add₀ two_ne_zero]
    exact zpow_le_zpow_right₀ one_le_two (by omega)

/-- The rounded value is at most 2^53 spacings away from zero; the rounding may reach the bound. -/
theorem abs_nearestEven_le (q : ℚ) : |nearestEven (q / ulp64 q)| ≤ 2 ^ 53 := by
  have hu := ulp64_pos q
  have hq : |q / ulp64 q| < 2 ^ 53 := by
    rw [abs_div, abs_of_pos hu, div_lt_iff₀ hu]
    exact abs_lt_ulp64 q
  have herr := nearestEven_error (q / ulp64 q)
  have hlt : (|nearestEven (q / ulp64 q)| : ℚ) < 2 ^ 53 + 1 := by
    have := abs_sub_abs_le_abs_sub (nearestEven (q / ulp64 q) : ℚ) (q / ulp64 q)
    linarith
  have : |nearestEven (q / ulp64 q)| < 2 ^ 53 + 1 := by exact_mod_cast hlt
  omega

/-- A significand of exactly 2^53 is representable too: it is even, so half of it serves with the next exponent. -/
theorem isBinary64_mul_zpow {n e : Int} (hn : |n| ≤ 2 ^ 53) (he : -1074 ≤ e) : IsBinary64 (n * (2 : ℚ) ^ e) := by
  rcases hn.lt_or_eq with hlt | heq
  · exact ⟨n, e, hlt, he, rfl⟩
  · have heven : (2 : Int) ∣ n := by
      rw [← dvd_abs, heq]
      norm_num
    obtain ⟨k, rfl⟩ := heven
    refine ⟨k, e + 1, ?_, by omega, ?_⟩
    · rw [abs_mul] at heq
      norm_num at heq ⊢
      omega
    · rw [zpow_add_one₀ two_ne_zero]
      push_cast
      ring

/-- The rounded value is one that binary64 represents. -/
theorem isBinary64_round64 (q : ℚ) : IsBinary64 (round64 q) := by
  have h := isBinary64_mul_zpow (abs_nearestEven_le q) (le_max_right (binade q - 52) (-1074))
  rwa [← ulp64_eq_zpow, ← round64_eq_mul_ulp64] at h

/-- With an exponent no less than the spacing's, a value is a multiple of the spacing. -/
theorem exists_multiple_of_le_exponent (q : ℚ) (n : Int) {e : Int} (he : max (binade q - 52) (-1074) ≤ e) :
    ∃ k : Int, n * (2 : ℚ) ^ e = k * ulp64 q := by
  obtain ⟨j, hj⟩ := Int.eq_ofNat_of_zero_le (sub_nonneg.2 he)
  refine ⟨n * 2 ^ j, ?_⟩
  obtain rfl : e = j + max (binade q - 52) (-1074) := by omega
  rw [ulp64_eq_zpow, zpow_add₀ two_ne_zero, zpow_natCast]
  push_cast
  ring

/-- Where the spacing is not the subnormals', a value is at least 2^52 spacings away from zero. -/
theorem ulp64_le_abs {q : ℚ} (hq : q ≠ 0) (h : -1074 ≤ binade q - 52) : 2 ^ 52 * ulp64 q ≤ |q| := by
  refine le_trans ?_ (binade_spec q hq).1
  rw [pow2_eq_zpow, ulp64_eq_zpow, ← zpow_natCast, ← zpow_add₀ two_ne_zero, max_eq_left h]
  exact zpow_le_zpow_right₀ one_le_two (by omega)

/-- A number no greater in magnitude than b is no nearer to a q beyond b than b is, taken with q's sign. -/
theorem exists_sign_nearer {q r b : ℚ} (hr : |r| ≤ b) (hq : b ≤ |q|) :
    ∃ σ : Int, |σ * b - q| ≤ |r - q| := by
  obtain ⟨hlo, hhi⟩ := abs_le.1 hr
  rcases le_total 0 q with h0 | h0
  · rw [abs_of_nonneg h0] at hq
    refine ⟨1, ?_⟩
    rw [abs_of_nonpos (by push_cast; linarith), abs_of_nonpos (by linarith)]
    push_cast
    linarith
  · rw [abs_of_nonpos h0] at hq
    refine ⟨-1, ?_⟩
    rw [abs_of_nonneg (by push_cast; linarith), abs_of_nonneg (by linarith)]
    push_cast
    linarith

/-- For every representable value some multiple of the spacing is as near: the value itself, or, where it lies in a lower
binade than q, the least magnitude of q's binade. -/
theorem IsBinary64.exists_multiple_nearer {r : ℚ} (hr : IsBinary64 r) (q : ℚ) :
    ∃ k : Int, |k * ulp64 q - q| ≤ |r - q| := by
  obtain ⟨n, e, hn, he, rfl⟩ := hr
  by_cases hle : max (binade q - 52) (-1074) ≤ e
  · obtain ⟨k, hk⟩ := exists_multiple_of_le_exponent q n hle
    exact ⟨k, by rw [hk]⟩
  · by_cases hq : q = 0
    · refine ⟨0, ?_⟩
      rw [hq, Int.cast_zero, zero_mul, sub_zero, abs_zero]
      exact abs_nonneg _
    have hnormal : -1074 ≤ binade q - 52 := by omega
    have hr : |n * (2 : ℚ) ^ e| ≤ 2 ^ 52 * ulp64 q := by
      rw [abs_mul, abs_of_pos (zpow_pos two_pos e : (0 : ℚ) < 2 ^ e)]
      calc (|n| : ℚ) * 2 ^ e ≤ 2 ^ 53 * 2 ^ e := by
            gcongr
            exact_mod_cast hn.le
        _ = 2 ^ 52 * 2 ^ (e + 1) := by
            rw [zpow_add_one₀ two_ne_zero]
            ring
        _ ≤ 2 ^ 52 * ulp64 q := by
            rw [ulp64_eq_zpow]
            gcongr
            · exact one_le_two
            · omega
    obtain ⟨σ, hσ⟩ := exists_sign_nearer hr (ulp64_le_abs hq hnormal)
    refine ⟨σ * 2 ^ 52, ?_⟩
    push_cast
    rwa [mul_assoc]

/-- Settles O21: the rounded value is a nearest multiple of the spacing, and no representable value is nearer than every
multiple. -/
theorem roundingIsNearestEven : Obligations.RoundingIsNearestEven := by
  intro q
  refine ⟨isBinary64_round64 q, fun r hr => ?_, fun n hn => ?_⟩
  · obtain ⟨k, hk⟩ := hr.exists_multiple_nearer q
    exact (round64_nearest_multiple q k).trans hk
  · have hdiv : q / ulp64 q = n + 1 / 2 := by rw [div_eq_iff (ulp64_pos q).ne', ← hn]
    obtain ⟨k, hk⟩ := nearestEven_tie n
    refine ⟨k, ?_⟩
    rw [round64_eq_mul_ulp64, hdiv, hk]
    push_cast
    ring

end Sys2Proof.Machine
end

section
/-! The end of a command: what it always leaves behind (10_state.md R47, R53), and which registers it can write (R48, R49). -/

namespace Sys2Proof.Machine

/-! ### A command keeps the control state -/

/-- What no command touches of the control state: IRQ_EN, OVR, the reset input and the events to come. -/
def State.control (s : State) : Bool × Bool × Bool × List Input := (s.irqEn, s.ovr, s.resetAsserted, s.inputs)

@[simp] theorem State.complete_control (s : State) : s.complete.control = s.control := rfl

@[simp] theorem State.raise_control (s : State) (e : CmdError) (info : Word) : (s.raise e info).control = s.control := rfl

@[simp] theorem State.busError_control (s : State) (a : Nat) : (s.busError a).control = s.control := rfl

@[simp] theorem State.withMem_control (s : State) (m : Memory) : (s.withMem m).control = s.control := rfl

@[simp] theorem State.unspecify_control (s : State) (addrs : List Nat) : (s.unspecify addrs).control = s.control := rfl

@[simp] theorem State.writeResult_control (s : State) (r : Result) (m : Memory) :
    (s.writeResult r m).control = s.control := by
  cases r <;> rfl

@[simp] theorem State.writeFreeResult_control (s : State) (r : Result) (reads : List Nat) :
    (s.writeFreeResult r reads).control = s.control := by
  cases r <;> rfl

@[simp] theorem State.spoilWritten_control (s : State) (addrs : List Nat) :
    (s.spoilWritten addrs).control = s.control := by
  cases addrs <;> rfl

@[simp] theorem State.applyPlan_control (s : State) (p : Plan) : (s.applyPlan p).control = s.control := by
  unfold State.applyPlan
  split <;> simp

@[simp] theorem State.runCommand_control (s : State) (r : Except CmdError Plan) :
    (s.runCommand r).control = s.control := by
  cases r with
  | error e => rfl
  | ok p =>
    rw [State.runCommand_ok]
    obtain ⟨a, -, hrun⟩ | ⟨a, -, hrun⟩ | ⟨-, -, hrun⟩ := s.runPlan_cases p <;> simp [hrun]

/-! ### A command ends IDLE with DONE set -/

theorem State.applyPlan_ended (s : State) (p : Plan) :
    (s.applyPlan p).engine = .idle ∧ (s.applyPlan p).done = true := by
  unfold State.applyPlan
  split <;> exact ⟨rfl, rfl⟩

theorem State.runCommand_ended (s : State) (r : Except CmdError Plan) :
    (s.runCommand r).engine = .idle ∧ (s.runCommand r).done = true := by
  cases r with
  | error e => exact ⟨rfl, rfl⟩
  | ok p =>
    rw [State.runCommand_ok]
    obtain ⟨a, -, hrun⟩ | ⟨a, -, hrun⟩ | ⟨-, -, hrun⟩ := s.runPlan_cases p <;> rw [hrun]
    · exact ⟨rfl, rfl⟩
    · exact ⟨rfl, rfl⟩
    · exact s.applyPlan_ended p

/-- Settles O6: a command is its checks and its plan, run, and every end of that is IDLE and DONE and keeps the rest. -/
theorem everyCommandEndsDone : Obligations.EveryCommandEndsDone := by
  intro i s
  have hcontrol := s.runCommand_control (commandPlan i s.latched)
  obtain ⟨hengine, hdone⟩ := s.runCommand_ended (commandPlan i s.latched)
  obtain ⟨hplatform, houtputs⟩ := s.runCommand_platform_outputs (commandPlan i s.latched)
  simp only [State.control, Prod.mk.injEq] at hcontrol
  obtain ⟨hirqEn, hovr, hreset, hinputs⟩ := hcontrol
  have hirq : (s.runCommand (commandPlan i s.latched)).irq = s.irqEn := by simp [State.irq, hdone, hirqEn]
  exact ⟨_, exec_eq_runCommand i s, hengine, hdone, hirq, hirqEn, hovr, hreset, hplatform, hinputs, houtputs⟩

/-! ### The result registers a command writes -/

/-- BLUR_RESULT and MAX_GRADIENT (10_state.md R48). -/
def State.blurReport (s : State) : Bool × Bool × Word := (s.blurValid, s.isBlurred, s.maxGradient)

/-- Which registers differ between s and t where t is s with a result of this kind written (10_state.md R49). -/
def Result.Writes (r : Result) (s t : State) : Prop :=
  match r with
  | .none => t.operands = s.operands ∧ t.blurReport = s.blurReport
  | .pixel _ => (∃ p, t.operands = (s.writePixel p).operands) ∧ t.blurReport = s.blurReport
  | .blur _ _ _ => t.operands = s.operands

theorem State.writeResult_writes (s : State) (r : Result) (m : Memory) : r.Writes s (s.writeResult r m) := by
  cases r with
  | none => exact ⟨rfl, rfl⟩
  | pixel value => exact ⟨⟨value m, rfl⟩, rfl⟩
  | blur edgeThreshold lanemax maxGradient => exact rfl

theorem State.writeFreeResult_writes (s : State) (r : Result) (reads : List Nat) :
    r.Writes s (s.writeFreeResult r reads) := by
  cases r with
  | none => exact ⟨rfl, rfl⟩
  | pixel value => exact ⟨⟨_, rfl⟩, rfl⟩
  | blur edgeThreshold lanemax maxGradient => exact rfl

/-- What is written depends on the operands and the blur report alone. -/
theorem Result.Writes.congr {r : Result} {s t s' t' : State} (h : r.Writes s t) (hs : s'.operands = s.operands)
    (hs' : s'.blurReport = s.blurReport) (ht : t'.operands = t.operands) (ht' : t'.blurReport = t.blurReport) :
    r.Writes s' t' := by
  cases r <;> simpa only [Result.Writes, State.writePixel_operands, hs, hs', ht, ht'] using h

@[simp] theorem State.spoilWritten_registers (s : State) (addrs : List Nat) :
    (s.spoilWritten addrs).operands = s.operands ∧ (s.spoilWritten addrs).blurReport = s.blurReport ∧
      (s.spoilWritten addrs).errCode = s.errCode := by
  cases addrs <;> exact ⟨rfl, rfl, rfl⟩

@[simp] theorem State.writeResult_errCode (s : State) (r : Result) (m : Memory) :
    (s.writeResult r m).errCode = s.errCode := by
  cases r <;> rfl

@[simp] theorem State.writeFreeResult_errCode (s : State) (r : Result) (reads : List Nat) :
    (s.writeFreeResult r reads).errCode = s.errCode := by
  cases r <;> rfl

/-- A command none of whose accesses is refused writes its result and raises nothing. -/
theorem State.applyPlan_writes (s : State) (p : Plan) :
    p.result.Writes s (s.applyPlan p) ∧ (s.applyPlan p).errCode = s.errCode := by
  unfold State.applyPlan
  split
  · exact ⟨(State.writeFreeResult_writes (s.unspecify p.mayChange) p.result p.reads).congr rfl rfl rfl rfl, by simp⟩
  · obtain ⟨hoperands, hblur, herr⟩ :=
      (s.withMem (s.mem.writeAll (p.cells s.mem))).spoilWritten_registers s.breach.destWritten
    exact ⟨(State.writeResult_writes _ p.result s.mem).congr hoperands.symm hblur.symm rfl rfl, by simp⟩

/-- A command raises and writes no result, or writes the result of its plan and raises nothing (10_state.md R49). -/
theorem State.runPlan_writes (s : State) (p : Plan) :
    Result.none.Writes s (s.runPlan p) ∨ (p.result.Writes s (s.runPlan p) ∧ (s.runPlan p).errCode = s.errCode) := by
  obtain ⟨a, -, hrun⟩ | ⟨a, -, hrun⟩ | ⟨-, -, hrun⟩ := s.runPlan_cases p <;> rw [hrun]
  · exact .inl ⟨rfl, rfl⟩
  · exact .inl ⟨rfl, rfl⟩
  · exact .inr (s.applyPlan_writes p)

/-! ### Whose results they are -/

/-- A check that is followed by others passes, and then so do the others. -/
theorem except_bind_eq_ok {ε α β : Type} {x : Except ε α} {f : α → Except ε β} {b : β} :
    x >>= f = .ok b ↔ ∃ a, x = .ok a ∧ f a = .ok b := by
  cases x <;> simp [bind, Except.bind]

/-- A pixel is a result of GET_PIXEL only, a blur report of DETECT_BLUR only (10_state.md R49). -/
def Result.BelongsTo (r : Result) (i : Instr) : Prop :=
  match r with
  | .none => True
  | .pixel _ => i = .getPixel
  | .blur _ _ _ => i = .detectBlur

theorem commandPlan_result_belongsTo {i : Instr} {l : Operands} {p : Plan} (h : commandPlan i l = .ok p) :
    p.result.BelongsTo i := by
  cases i <;>
    simp only [commandPlan, nopPlan, clearPlan, getPixelPlan, setPixelPlan, copyPlan, nearestPlan, bilinearPlan,
      bicubicPlan, convPlan, blurPlan, except_bind_eq_ok] at h
  case nop =>
    cases h
    trivial
  case getPixel =>
    obtain ⟨b, -, h⟩ := h
    cases h
    rfl
  case detectBlur =>
    obtain ⟨b, -, _, -, h⟩ := h
    cases h
    rfl
  case setPixel | resampleNearest | resampleBilinear | resampleBicubic =>
    obtain ⟨b, -, h⟩ := h
    cases h
    trivial
  case clear | copy | convolve =>
    obtain ⟨b, -, _, -, h⟩ := h
    cases h
    trivial

/-- Every end of a command writes a result that is the command's own, and none where it raises (10_state.md R49). -/
theorem exec_writes {i : Instr} {s t : State} (h : exec i s = .next t) :
    ∃ r : Result, r.BelongsTo i ∧ r.Writes s t ∧ (r = .none ∨ t.errCode = s.errCode) := by
  rw [exec_eq_runCommand] at h
  cases h
  cases hplan : commandPlan i s.latched with
  | error e => exact ⟨.none, trivial, ⟨rfl, rfl⟩, .inl rfl⟩
  | ok p =>
    rw [State.runCommand_ok]
    obtain hnone | ⟨hwrites, herr⟩ := s.runPlan_writes p
    · exact ⟨.none, trivial, hnone, .inl rfl⟩
    · exact ⟨p.result, commandPlan_result_belongsTo hplan, hwrites, .inr herr⟩

/-- No result changes an operand register other than PIX_B to PIX_A. -/
theorem Result.Writes.operands_eq {r : Result} {s t : State} (h : r.Writes s t) :
    t.operands =
      { s.operands with
        pixB := t.operands.pixB, pixG := t.operands.pixG, pixR := t.operands.pixR, pixA := t.operands.pixA } := by
  cases r with
  | none => rw [h.1]
  | pixel value =>
    obtain ⟨⟨p, hp⟩, -⟩ := h
    rw [hp, State.writePixel_operands]
  | blur edgeThreshold lanemax maxGradient => rw [show t.operands = s.operands from h]

theorem Result.Writes.operands_of_ne {i : Instr} {r : Result} {s t : State} (h : r.Writes s t) (hr : r.BelongsTo i)
    (hi : i ≠ .getPixel) : t.operands = s.operands := by
  cases r with
  | none => exact h.1
  | pixel value => exact absurd hr hi
  | blur edgeThreshold lanemax maxGradient => exact h

theorem Result.Writes.blurReport_of_ne {i : Instr} {r : Result} {s t : State} (h : r.Writes s t) (hr : r.BelongsTo i)
    (hi : i ≠ .detectBlur) : t.blurReport = s.blurReport := by
  cases r with
  | none => exact h.2
  | pixel value => exact h.2
  | blur edgeThreshold lanemax maxGradient => exact absurd hr hi

/-- Settles O36: what is written is a result of the command's own, and no result where the command raises. -/
theorem resultRegistersWrittenOnlyBySuccess : Obligations.ResultRegistersWrittenOnlyBySuccess := by
  intro i s t h
  obtain ⟨r, hr, hwrites, hraise⟩ := exec_writes h
  have report (hblur : t.blurReport = s.blurReport) :
      t.blurValid = s.blurValid ∧ t.isBlurred = s.isBlurred ∧ t.maxGradient = s.maxGradient := by
    simpa only [State.blurReport, Prod.mk.injEq] using hblur
  refine ⟨hwrites.operands_of_ne hr, hwrites.operands_eq, fun hi => report (hwrites.blurReport_of_ne hr hi),
    fun hnone hsome => ?_⟩
  obtain rfl | herr := hraise
  · obtain ⟨hoperands, hblur⟩ := hwrites
    exact ⟨hoperands, report hblur⟩
  · exact absurd (herr.trans hnone) hsome

end Sys2Proof.Machine
end

section
/-! The register block behind the slave port (10_state.md R20 to R53): which accesses are defined, what a step does at a
register access, and what a write to each kind of register does. -/

namespace Sys2Proof.Machine

/-! ### Defined accesses -/

theorem State.portOffset_eq_some {s : State} {addr bytes o : Nat} :
    s.portOffset addr bytes = some o ↔ bytes = 4 ∧ addr = s.platform.regBase + o ∧ o < 128 ∧ o % 4 = 0 := by
  unfold State.portOffset Config.regBlockSize
  split
  case isTrue h =>
    rw [Option.some.injEq]
    omega
  case isFalse h =>
    simp only [reduceCtorEq, false_iff]
    omega

/-- The defined accesses are those that have an offset while the reset input is released (10_state.md R22). -/
theorem State.definedAccess_iff {s : State} {addr bytes : Nat} :
    s.definedAccess addr bytes ↔ s.resetAsserted = false ∧ ∃ o, s.portOffset addr bytes = some o := by
  simp only [State.portOffset_eq_some]
  constructor
  · rintro ⟨hreset, hbytes, hlow, hhigh, haligned⟩
    exact ⟨hreset, addr - s.platform.regBase, by omega⟩
  · rintro ⟨hreset, o, hbytes, rfl, hhigh, haligned⟩
    exact ⟨hreset, by omega⟩

/-- An access that is not defined is refused, whatever it would do (items I3 and I11). -/
theorem State.onPort_undefined {s : State} {addr bytes : Nat} (effect : Nat → State) (h : ¬ s.definedAccess addr bytes) :
    s.onPort addr bytes effect = .refused (if s.resetAsserted then .accessDuringReset else .undefinedRegisterAccess) := by
  rw [State.definedAccess_iff] at h
  unfold State.onPort
  split
  case isTrue => rfl
  case isFalse hreset =>
    split
    case h_1 => rfl
    case h_2 o ho => exact absurd ⟨by simpa using hreset, o, ho⟩ h

/-- A poll of an undefined access does not wait: it is refused as any other (10_state.md R22). -/
theorem State.pollWaits_undefined {s : State} {addr : Nat} (mask value : Word) (h : ¬ s.definedAccess addr 4) :
    s.pollWaits addr mask value = false := by
  rw [State.definedAccess_iff] at h
  unfold State.pollWaits
  split
  case h_1 o hreset ho => exact absurd ⟨hreset, o, ho⟩ h
  case h_2 => rfl

/-- Only the offset of 10_state.md R21 names the register. -/
theorem Reg.eq_offset_of_ofOffset {o : Nat} {r : Reg} (h : Reg.ofOffset o = some r) : o = r.offset := by
  unfold Reg.ofOffset at h
  split at h <;> cases h <;> rfl

theorem State.readOffset_offset (s : State) (r : Reg) : s.readOffset r.offset = s.readReg r := by
  simp [State.readOffset]

theorem State.writeOffset_offset (s : State) (r : Reg) (v : Word) : s.writeOffset r.offset v = s.writeReg r v := by
  simp [State.writeOffset]

theorem State.readOffset_reserved {o : Nat} (s : State) (h : Reg.ofOffset o = none) : s.readOffset o = 0 := by
  simp [State.readOffset, h]

theorem State.writeOffset_reserved {o : Nat} (s : State) (v : Word) (h : Reg.ofOffset o = none) :
    s.writeOffset o v = s := by
  simp [State.writeOffset, h]

/-! ### The step at a register access -/

theorem step_regRead {s : State} {addr bytes : Nat} {rest : List Input} (h : s.inputs = .regRead addr bytes :: rest) :
    step s = (s.withInputs rest).hostEvent (.regRead addr bytes) := by
  simp [step, State.turn, h]

theorem step_regWrite {s : State} {addr bytes : Nat} {v : Word} {rest : List Input}
    (h : s.inputs = .regWrite addr bytes v :: rest) :
    step s = (s.withInputs rest).hostEvent (.regWrite addr bytes v) := by
  simp [step, State.turn, h]

theorem step_poll_undefined {s : State} {addr : Nat} {mask value : Word} {rest : List Input}
    (h : s.inputs = .poll addr mask value :: rest) (hundef : ¬ s.definedAccess addr 4) :
    step s = (s.withInputs rest).hostEvent (.poll addr mask value) := by
  simp [step, State.turn, h, State.pollWaits_undefined mask value hundef]

/-- A read at an aligned offset inside the block returns what the offset reads as (10_state.md R22). -/
theorem step_readOffset {s : State} {o : Nat} {rest : List Input} (hreset : s.resetAsserted = false)
    (h : s.inputs = .regRead (s.platform.regBase + o) 4 :: rest) (hlt : o < 128) (haligned : o % 4 = 0) :
    step s = .next { s with inputs := rest, outputs := s.outputs ++ [.word (s.readOffset o)] } := by
  rw [step_regRead h]
  have hport := State.onPort_defined (s.withInputs rest) _ _ o
    (fun offset => (s.withInputs rest).output (.word ((s.withInputs rest).readOffset offset))) hreset
    (State.portOffset_of_lt (s.withInputs rest) o hlt haligned)
  rw [State.withInputs_readOffset] at hport
  exact hport

/-- A write at an aligned offset inside the block has the offset's effect (10_state.md R22). -/
theorem step_writeOffset {s : State} {o : Nat} {v : Word} {rest : List Input} (hreset : s.resetAsserted = false)
    (h : s.inputs = .regWrite (s.platform.regBase + o) 4 v :: rest) (hlt : o < 128) (haligned : o % 4 = 0) :
    step s = .next ((s.withInputs rest).writeOffset o v) := by
  rw [step_regWrite h]
  exact State.onPort_defined (s.withInputs rest) _ _ o (fun offset => (s.withInputs rest).writeOffset offset v) hreset
    (State.portOffset_of_lt (s.withInputs rest) o hlt haligned)

theorem Reg.offset_lt (r : Reg) : r.offset < 128 := by cases r <;> decide

theorem Reg.offset_aligned (r : Reg) : r.offset % 4 = 0 := by cases r <;> decide

theorem step_writeReg {s : State} {r : Reg} {v : Word} {rest : List Input} (hreset : s.resetAsserted = false)
    (h : s.inputs = .regWrite (s.platform.regBase + r.offset) 4 v :: rest) :
    step s = .next ((s.withInputs rest).writeReg r v) := by
  rw [step_writeOffset hreset h r.offset_lt r.offset_aligned, State.writeOffset_offset]

/-! ### A write to each kind of register -/

theorem State.writeReg_operand {r : Reg} (s : State) (v : Word) (h : r.isOperand = true) :
    s.writeReg r v = s.writeOperand r v := by
  cases r <;> cases h <;> rfl

/-- Every register is CTRL, STATUS, an operand register or a read-only one, whose writes are ignored (10_state.md R21). -/
theorem State.writeReg_cases (s : State) (r : Reg) (v : Word) :
    (r = .ctrl ∧ s.writeReg r v = s.writeCtrl v) ∨ (r = .status ∧ s.writeReg r v = s.acknowledge v) ∨
      (r.isOperand = true ∧ s.writeReg r v = s.writeOperand r v) ∨ s.writeReg r v = s := by
  by_cases hr : r.isOperand = true
  · exact .inr (.inr (.inl ⟨hr, s.writeReg_operand v hr⟩))
  · cases r <;> simp [State.writeReg, Reg.isOperand] at hr ⊢

theorem State.busy_of_idle {s : State} (h : s.engine = .idle) : s.busy = false := by simp [State.busy, h]

theorem State.busy_iff {s : State} : s.busy = true ↔ s.engine ≠ .idle := by
  cases h : s.engine <;> simp [State.busy, h]

theorem State.writeOperand_idle (s : State) (r : Reg) (v : Word) (h : s.engine = .idle) :
    s.writeOperand r v = { s with operands := s.operands.write r v } := by
  simp [State.writeOperand, State.busy_of_idle h]

theorem State.writeOperand_busy (s : State) (r : Reg) (v : Word) (h : s.busy = true) :
    s.writeOperand r v = s.setOvr := by
  simp [State.writeOperand, h]

theorem State.writeCtrl_softReset (s : State) {v : Word} (h : bit v 1 = true) : s.writeCtrl v = s.softReset := by
  simp [State.writeCtrl, h]

theorem State.writeCtrl_noStart (s : State) {v : Word} (h1 : bit v 1 = false) (h0 : bit v 0 = false) :
    s.writeCtrl v = { s with irqEn := bit v 2 } := by
  simp [State.writeCtrl, h1, h0]

theorem State.writeCtrl_start_idle (s : State) {v : Word} (h1 : bit v 1 = false) (h0 : bit v 0 = true)
    (h : s.engine = .idle) : s.writeCtrl v = ({ s with irqEn := bit v 2 } : State).accept := by
  simp [State.writeCtrl, State.busy, h1, h0, h]

theorem State.writeCtrl_start_busy (s : State) {v : Word} (h1 : bit v 1 = false) (h0 : bit v 0 = true)
    (h : s.busy = true) : s.writeCtrl v = ({ s with irqEn := bit v 2 } : State).setOvr := by
  have hbusy : ({ s with irqEn := bit v 2 } : State).busy = true := h
  simp [State.writeCtrl, h1, h0, hbusy]

/-! ### What the registers show -/

/-- A stored register reads back its low bits, the reserved ones as 0 (10_state.md R24). -/
theorem State.readReg_write_same {r : Reg} (s : State) (v : Word) (h : r.isOperand = true) :
    (({ s with operands := s.operands.write r v } : State).readReg r).toNat = v.toNat % 2 ^ r.storedBits := by
  cases r <;> cases h
  case srcFmt | dstFmt | pixB | pixG | pixR | pixA =>
    simp only [State.readReg, Operands.write, Reg.storedBits, BitVec.toNat_setWidth]
    omega
  all_goals exact (Nat.mod_eq_of_lt v.isLt).symm

/-- A register other than the written one reads as before: the operand registers are separate fields, and no other register
shows any of them. -/
theorem State.readReg_write_other {r r' : Reg} (s : State) (v : Word) (h : r' ≠ r) :
    ({ s with operands := s.operands.write r v } : State).readReg r' = s.readReg r' := by
  cases r' <;> cases r <;>
    simp [State.readReg, Operands.write, State.ctrlWord, State.statusWord, State.blurWord, State.busy] at h ⊢

theorem flag_le (b : Bool) : flag b ≤ 1 := by cases b <;> decide

theorem errCodeValue_le (e : Option CmdError) : errCodeValue e ≤ 7 := by
  cases e with
  | none => decide
  | some e => cases e <;> decide

theorem bit_eq_of_flag {w : Word} {i : Nat} {b : Bool} (h : w.toNat / 2 ^ i % 2 = flag b) : bit w i = b := by
  cases b <;> simp [bit, h, flag]

/-- The fields of STATUS fit in the word, one beside the other (10_state.md R32). -/
theorem State.statusWord_toNat (s : State) :
    s.statusWord.toNat =
      flag s.busy + flag s.done * 2 + flag s.err * 4 + flag s.ovr * 8 + errCodeValue s.errCode * 256 := by
  have hbusy := flag_le s.busy
  have hdone := flag_le s.done
  have herr := flag_le s.err
  have hovr := flag_le s.ovr
  have hcode := errCodeValue_le s.errCode
  rw [State.statusWord, BitVec.toNat_ofNat, Nat.mod_eq_of_lt]
  omega

theorem State.ctrlWord_toNat (s : State) : s.ctrlWord.toNat = flag s.irqEn * 4 := by
  have hirqEn := flag_le s.irqEn
  rw [State.ctrlWord, BitVec.toNat_ofNat, Nat.mod_eq_of_lt]
  omega

theorem State.blurWord_toNat (s : State) : s.blurWord.toNat = flag s.isBlurred + flag s.blurValid * 2 := by
  have hblurred := flag_le s.isBlurred
  have hvalid := flag_le s.blurValid
  rw [State.blurWord, BitVec.toNat_ofNat, Nat.mod_eq_of_lt]
  omega

/-- Each flag stands in its own bit of STATUS (10_state.md R32). -/
theorem State.bit_statusWord (s : State) :
    bit s.statusWord 0 = s.busy ∧ bit s.statusWord 1 = s.done ∧ bit s.statusWord 2 = s.err ∧
      bit s.statusWord 3 = s.ovr := by
  have hbusy := flag_le s.busy
  have hdone := flag_le s.done
  have herr := flag_le s.err
  have hovr := flag_le s.ovr
  have hword := s.statusWord_toNat
  refine ⟨bit_eq_of_flag ?_, bit_eq_of_flag ?_, bit_eq_of_flag ?_, bit_eq_of_flag ?_⟩ <;> omega

/-- The error code stands in bits 11:8 of STATUS, and the bits around it are 0 (10_state.md R32, R37). -/
theorem State.bits_statusWord (s : State) :
    bits s.statusWord 7 4 = 0 ∧ bits s.statusWord 11 8 = errCodeValue s.errCode ∧ bits s.statusWord 31 12 = 0 := by
  have hbusy := flag_le s.busy
  have hdone := flag_le s.done
  have herr := flag_le s.err
  have hovr := flag_le s.ovr
  have hcode := errCodeValue_le s.errCode
  have hword := s.statusWord_toNat
  unfold bits
  omega

/-- IRQ_EN stands in bit 2 of CTRL, every other bit is 0 (10_state.md R28). -/
theorem State.fields_ctrlWord (s : State) :
    bits s.ctrlWord 1 0 = 0 ∧ bit s.ctrlWord 2 = s.irqEn ∧ bits s.ctrlWord 31 3 = 0 := by
  have hirqEn := flag_le s.irqEn
  have hword := s.ctrlWord_toNat
  unfold bits
  refine ⟨?_, bit_eq_of_flag ?_, ?_⟩ <;> omega

/-- IS_BLURRED and VALID stand in bits 0 and 1 of BLUR_RESULT, every other bit is 0 (10_state.md R48). -/
theorem State.fields_blurWord (s : State) :
    bit s.blurWord 0 = s.isBlurred ∧ bit s.blurWord 1 = s.blurValid ∧ bits s.blurWord 31 2 = 0 := by
  have hblurred := flag_le s.isBlurred
  have hvalid := flag_le s.blurValid
  have hword := s.blurWord_toNat
  unfold bits
  refine ⟨bit_eq_of_flag ?_, bit_eq_of_flag ?_, ?_⟩ <;> omega

end Sys2Proof.Machine
end

section
/-! The obligations on the register block that concern one access or one state (10_state.md). -/

namespace Sys2Proof.Machine

/-- Settles O45: the write is an operand write while IDLE, which changes what its own register reads alone. -/
theorem operandWriteReadsBack : Obligations.OperandWriteReadsBack := by
  intro s r v rest hreset hidle hoperand hin
  refine ⟨s.operands.write r v, ?_, s.readReg_write_same v hoperand, fun r' hne => s.readReg_write_other v hne⟩
  rw [step_writeReg hreset hin, State.writeReg_operand _ v hoperand,
    State.writeOperand_idle (s.withInputs rest) r v hidle]
  rfl

/-- Settles O42: every register's offset is a defined one, and the offset reads as its register. -/
theorem registerReadReturnsValue : Obligations.RegisterReadReturnsValue := by
  intro s r rest hreset hin
  rw [step_readOffset hreset hin r.offset_lt r.offset_aligned, State.readOffset_offset]

/-- Every reserved offset is a defined one that names no register (10_state.md R23). -/
theorem ofOffset_reserved :
    ∀ o ∈ [0x014, 0x018, 0x01C, 0x06C, 0x070, 0x074, 0x078, 0x07C],
      o < 128 ∧ o % 4 = 0 ∧ Reg.ofOffset o = none := by
  decide

/-- Settles O43: the reserved offsets are defined, and no register answers at them. -/
theorem reservedOffsetsIgnoreWrites : Obligations.ReservedOffsetsIgnoreWrites := by
  intro s v rest hreset o ho
  obtain ⟨hlt, haligned, hnone⟩ := ofOffset_reserved o ho
  refine ⟨fun hin => ?_, fun hin => ?_⟩
  · rw [step_readOffset hreset hin hlt haligned, s.readOffset_reserved hnone]
  · rw [step_writeOffset hreset hin hlt haligned, State.writeOffset_reserved _ v hnone]
    rfl

/-- Settles O44: the halves of a constant, and a write that is ignored. -/
theorem idIsConstant : Obligations.IdIsConstant := by
  intro s v
  have hhigh : bits Config.idValue 31 16 = 0x4253 := by decide
  have hlow : bits Config.idValue 15 0 = 0x0007 := by decide
  exact ⟨hhigh, hlow, rfl⟩

/-- Settles O46: an operand write is blocked by BUSY, a read-only register by nothing but its kind. -/
theorem busyWritesAreIgnored : Obligations.BusyWritesAreIgnored := by
  intro s r v rest hreset hin
  rw [step_writeReg hreset hin]
  refine ⟨fun hbusy hoperand => ?_, fun hreadOnly => ?_⟩
  · rw [State.writeReg_operand _ v hoperand, State.writeOperand_busy (s.withInputs rest) r v hbusy]
    rfl
  · simp only [List.mem_cons, List.not_mem_nil, or_false] at hreadOnly
    obtain rfl | rfl | rfl | rfl := hreadOnly <;> rfl

/-- Settles O47: the four cases of a CTRL write that does not reset, by START and by the engine. -/
theorem controlWriteStartsCommand : Obligations.ControlWriteStartsCommand := by
  intro s v rest hreset hnoReset hin
  rw [step_writeReg (r := .ctrl) hreset hin]
  change Host.Outcome.next ((s.withInputs rest).writeCtrl v) = _
  by_cases hstart : bit v 0 = true
  · rw [if_pos hstart]
    split
    case h_1 hidle =>
      rw [State.writeCtrl_start_idle (s.withInputs rest) hnoReset hstart hidle]
      rfl
    case h_2 l b hbusy =>
      rw [State.writeCtrl_start_busy (s.withInputs rest) hnoReset hstart (State.busy_iff.2 (by simp [hbusy]))]
      rfl
  · rw [if_neg hstart, State.writeCtrl_noStart _ hnoReset (by simpa using hstart)]
    rfl

/-- Settles O48: the write at 0x008 is the acknowledgement. -/
theorem statusWriteClearsBits : Obligations.StatusWriteClearsBits := by
  intro s v rest hreset hin
  have hclear (a b : Bool) : (a && !b) = if b then false else a := by cases b <;> simp
  rw [step_writeReg (r := .status) hreset hin]
  simp only [State.writeReg, State.acknowledge, hclear]
  rfl

/-- Settles O49: each register's fields, read off its word. -/
theorem statusShowsFlags : Obligations.StatusShowsFlags := by
  intro s
  obtain ⟨hbusy, hdone, herr, hovr⟩ := s.bit_statusWord
  obtain ⟨h74, hcode, h3112⟩ := s.bits_statusWord
  obtain ⟨hctrlLow, hirqEn, hctrlHigh⟩ := s.fields_ctrlWord
  obtain ⟨hblurred, hvalid, hblurHigh⟩ := s.fields_blurWord
  have hirq : s.irq = (bit s.ctrlWord 2 && bit s.statusWord 1) := by rw [hirqEn, hdone, State.irq]
  have hengine : bit s.statusWord 0 = true ↔ s.engine ≠ .idle := by rw [hbusy, State.busy_iff]
  exact ⟨hengine, hdone, herr, hovr, h74, hcode, h3112, hctrlLow, hirqEn, hctrlHigh, hblurred, hvalid, hblurHigh, hirq⟩

/-- Settles O53: each of the three accesses goes through the port, which refuses it. -/
theorem undefinedAccessIsRefused : Obligations.UndefinedAccessIsRefused := by
  intro s addr bytes data mask value rest i hi hin hundef
  have hundef' : ¬ (s.withInputs rest).definedAccess addr bytes := hundef
  obtain rfl | rfl | ⟨rfl, rfl⟩ := hi
  · exact (step_regRead hin).trans (State.onPort_undefined _ hundef')
  · exact (step_regWrite hin).trans (State.onPort_undefined _ hundef')
  · exact (step_poll_undefined hin hundef).trans (State.onPort_undefined _ hundef')

/-- Settles O54: the reset values, register by register. -/
theorem resetValues : Obligations.ResetValues :=
  ⟨fun r => by cases r <;> rfl, rfl, rfl⟩

end Sys2Proof.Machine
end

section
/-! What a step does to OVR and to an IDLE engine, said once, and the obligations on whole steps (10_state.md R22, R29, R36). -/

namespace Sys2Proof.Machine

/-! ### A defined event is answered -/

theorem State.hostEvent_next_of_defined {s : State} {i : Input} (h : i.defined s) : ∃ t, s.hostEvent i = .next t := by
  have port {addr bytes : Nat} (effect : Nat → State) (hdef : s.definedAccess addr bytes) :
      ∃ t, s.onPort addr bytes effect = .next t := by
    obtain ⟨hreset, o, ho⟩ := State.definedAccess_iff.1 hdef
    exact ⟨_, State.onPort_defined s addr bytes o effect hreset ho⟩
  cases i with
  | regRead addr bytes => exact port _ h
  | regWrite addr bytes data => exact port _ h
  | poll addr mask value => exact port _ h
  | memRead addr => exact ⟨_, if_pos h⟩
  | memWrite addr data => exact ⟨_, if_pos h⟩
  | resetAssert => exact ⟨_, rfl⟩
  | resetRelease => exact ⟨_, rfl⟩
  | engineTurn => exact ⟨_, rfl⟩

/-- Taking an event changes no access's being defined. -/
theorem Input.defined_withInputs {s : State} {i : Input} (rest : List Input) (h : i.defined s) :
    i.defined (s.withInputs rest) := by
  cases i <;> exact h

/-- Settles O7: the step is the engine's turn, which always answers, or the event at the head, which is a defined one. -/
theorem definedEventsNeverStop : Obligations.DefinedEventsNeverStop := by
  intro s hdef
  obtain hturn | ⟨rest, -, hturn⟩ | ⟨i, rest, hin, hturn⟩ := s.turn_cases <;> simp only [step, hturn]
  · exact engineTurn_next s
  · exact engineTurn_next (s.withInputs rest)
  · exact State.hostEvent_next_of_defined (Input.defined_withInputs rest (hdef i rest hin))

/-! ### OVR and an IDLE engine -/

/-- t has the OVR of s, and is IDLE where s is. -/
def State.KeepsOvrAndIdle (s t : State) : Prop := t.ovr = s.ovr ∧ (s.engine = .idle → t.engine = .idle)

theorem engineTurn_keepsOvrAndIdle {s t : State} (h : engineTurn s = .next t) : s.KeepsOvrAndIdle t := by
  obtain ⟨-, rfl⟩ | ⟨_, _, -, ⟨i, -, rfl⟩ | ⟨_, -, rfl⟩⟩ := engineTurn_cases h
  · exact ⟨rfl, id⟩
  · have hcontrol := s.runCommand_control (commandPlan i s.latched)
    simp only [State.control, Prod.mk.injEq] at hcontrol
    obtain ⟨-, hovr, -⟩ := hcontrol
    exact ⟨hovr, fun _ => (s.runCommand_ended _).1⟩
  · exact ⟨rfl, fun _ => rfl⟩

theorem State.hostRead_keepsOvrAndIdle (s : State) (a : Nat) : s.KeepsOvrAndIdle (s.hostRead a) := by
  unfold State.hostRead
  split <;> exact ⟨rfl, id⟩

theorem State.withBreach_idle {s : State} (b : Breach) (h : s.engine = .idle) : (s.withBreach b).engine = .idle := by
  simp [State.withBreach_eq, h]

theorem State.hostWrite_keepsOvrAndIdle (s : State) (a : Nat) (v : Byte) : s.KeepsOvrAndIdle (s.hostWrite a v) := by
  unfold State.hostWrite
  dsimp only
  split <;> exact ⟨State.withBreach_ovr _ _, fun hidle => State.withBreach_idle _ hidle⟩

/-- What an event of the host can do to OVR and to an IDLE engine: keep both, reset both, or write a register. -/
theorem State.hostEvent_cases {s t : State} {i : Input} (h : s.hostEvent i = .next t) :
    s.KeepsOvrAndIdle t ∨ (i = .resetAssert ∧ t.ovr = false ∧ t.engine = .idle) ∨
      ∃ r v, i = .regWrite (s.platform.regBase + r.offset) 4 v ∧ t = s.writeReg r v := by
  cases i with
  | regRead addr bytes =>
    obtain ⟨-, o, -, rfl⟩ := State.onPort_next h
    exact .inl ⟨rfl, id⟩
  | regWrite addr bytes data =>
    obtain ⟨-, o, ho, rfl⟩ := State.onPort_next h
    obtain ⟨rfl, rfl, -, -⟩ := State.portOffset_eq_some.1 ho
    cases hreg : Reg.ofOffset o with
    | none =>
      rw [State.writeOffset_reserved s data hreg]
      exact .inl ⟨rfl, id⟩
    | some r =>
      obtain rfl := Reg.eq_offset_of_ofOffset hreg
      exact .inr (.inr ⟨r, data, rfl, s.writeOffset_offset r data⟩)
  | poll addr mask value =>
    obtain ⟨-, o, -, rfl⟩ := State.onPort_next h
    exact .inl ⟨rfl, id⟩
  | memRead addr =>
    simp only [State.hostEvent] at h
    split at h <;> cases h
    exact .inl (s.hostRead_keepsOvrAndIdle addr)
  | memWrite addr data =>
    simp only [State.hostEvent] at h
    split at h <;> cases h
    exact .inl (s.hostWrite_keepsOvrAndIdle addr data)
  | resetAssert =>
    cases h
    exact .inr (.inl ⟨rfl, rfl, rfl⟩)
  | resetRelease =>
    cases h
    exact .inl ⟨rfl, id⟩
  | engineTurn =>
    cases h
    exact .inl ⟨rfl, id⟩

/-- What a step can do to OVR and to an IDLE engine. -/
theorem step_ovr_idle_cases {s t : State} (h : step s = .next t) :
    s.KeepsOvrAndIdle t ∨ (∃ rest, s.inputs = .resetAssert :: rest ∧ t.ovr = false ∧ t.engine = .idle) ∨
      ∃ r v rest, s.inputs = .regWrite (s.platform.regBase + r.offset) 4 v :: rest ∧
        t = (s.withInputs rest).writeReg r v := by
  obtain hengine | ⟨rest, -, hengine⟩ | ⟨i, rest, hin, hhost⟩ := step_cases h
  · exact .inl (engineTurn_keepsOvrAndIdle hengine)
  · have hkeeps := engineTurn_keepsOvrAndIdle hengine
    exact .inl hkeeps
  · obtain hkeeps | ⟨rfl, hovr, hidle⟩ | ⟨r, v, rfl, rfl⟩ := State.hostEvent_cases hhost
    · exact .inl hkeeps
    · exact .inr (.inl ⟨rest, hin, hovr, hidle⟩)
    · exact .inr (.inr ⟨r, v, rest, hin, rfl⟩)

/-! ### What a register write does to OVR and to the engine -/

theorem State.writeOperand_ovr (s : State) (r : Reg) (v : Word) :
    (s.writeOperand r v).ovr = (s.ovr || s.busy) := by
  cases hbusy : s.busy <;> simp [State.writeOperand, hbusy]

theorem State.writeCtrl_ovr (s : State) (v : Word) :
    (s.writeCtrl v).ovr = (!bit v 1 && (s.ovr || (bit v 0 && s.busy))) := by
  cases h1 : bit v 1
  case true =>
    rw [s.writeCtrl_softReset h1]
    rfl
  case false =>
    cases h0 : bit v 0
    case false => simp [s.writeCtrl_noStart h1 h0]
    case true =>
      cases hengine : s.engine with
      | idle => simp [s.writeCtrl_start_idle h1 h0 hengine, State.busy_of_idle hengine]
      | busy l b =>
        have hbusy : s.busy = true := State.busy_iff.2 (by simp [hengine])
        simp [s.writeCtrl_start_busy h1 h0 hbusy, hbusy]

theorem State.writeReg_clears_ovr {s : State} {r : Reg} {v : Word} (hs : s.ovr = true)
    (ht : (s.writeReg r v).ovr = false) : (r = .status ∧ bit v 3 = true) ∨ (r = .ctrl ∧ bit v 1 = true) := by
  obtain ⟨rfl, hw⟩ | ⟨rfl, hw⟩ | ⟨-, hw⟩ | hw := s.writeReg_cases r v <;> rw [hw] at ht
  · simpa [State.writeCtrl_ovr, hs] using ht
  · simpa [hs] using ht
  · simp [State.writeOperand_ovr, hs] at ht
  · simp [hs] at ht

theorem State.writeReg_sets_ovr {s : State} {r : Reg} {v : Word} (hs : s.ovr = false)
    (ht : (s.writeReg r v).ovr = true) :
    s.busy = true ∧ ((r = .ctrl ∧ bit v 0 = true ∧ bit v 1 = false) ∨ r.isOperand = true) := by
  obtain ⟨rfl, hw⟩ | ⟨rfl, hw⟩ | ⟨hoperand, hw⟩ | hw := s.writeReg_cases r v <;> rw [hw] at ht
  · obtain ⟨h1, h0, hbusy⟩ : bit v 1 = false ∧ bit v 0 = true ∧ s.busy = true := by
      simpa [State.writeCtrl_ovr, hs] using ht
    exact ⟨hbusy, .inl ⟨rfl, h0, h1⟩⟩
  · simp [hs] at ht
  · have hbusy : s.busy = true := by simpa [State.writeOperand_ovr, hs] using ht
    exact ⟨hbusy, .inr hoperand⟩
  · simp [hs] at ht

/-- Settles O50: a step other than a reset or a register write keeps OVR, and a register write changes it in these ways only. -/
theorem overrunIsSticky : Obligations.OverrunIsSticky := by
  intro s t h
  obtain ⟨hovr, -⟩ | ⟨rest, hin, hovr, -⟩ | ⟨r, v, rest, hin, rfl⟩ := step_ovr_idle_cases h
  · rw [hovr]
    exact ⟨fun hs ht => absurd (hs.symm.trans ht) (by decide), fun hs ht => absurd (hs.symm.trans ht) (by decide)⟩
  · exact ⟨fun _ _ => ⟨rest, .inl hin⟩, fun _ ht => by simp [hovr] at ht⟩
  · refine ⟨fun hs ht => ⟨rest, .inr ?_⟩, fun hs ht => ?_⟩
    · obtain ⟨rfl, h3⟩ | ⟨rfl, h1⟩ := State.writeReg_clears_ovr (s := s.withInputs rest) hs ht
      · exact .inl ⟨v, hin, h3⟩
      · exact .inr ⟨v, hin, h1⟩
    · obtain ⟨hbusy, ⟨rfl, h0, h1⟩ | hoperand⟩ := State.writeReg_sets_ovr (s := s.withInputs rest) hs ht
      · exact ⟨hbusy, rest, v, .inl ⟨hin, h0, h1⟩⟩
      · exact ⟨hbusy, rest, v, .inr ⟨r, hoperand, hin⟩⟩

/-- From IDLE, only a CTRL write with START and without SOFT_RESET starts a command, which latches the registers
(10_state.md R29, R45). -/
theorem State.writeReg_starts {s : State} {r : Reg} {v : Word} (hidle : s.engine = .idle)
    (ht : (s.writeReg r v).engine ≠ .idle) :
    r = .ctrl ∧ bit v 0 = true ∧ bit v 1 = false ∧ (s.writeReg r v).engine = .busy s.operands Breach.none := by
  obtain ⟨rfl, hw⟩ | ⟨rfl, hw⟩ | ⟨-, hw⟩ | hw := s.writeReg_cases r v <;> rw [hw] at ht ⊢
  · cases h1 : bit v 1
    case true => exact absurd (by rw [s.writeCtrl_softReset h1]; rfl) ht
    case false =>
      cases h0 : bit v 0
      case false => exact absurd (by simpa [s.writeCtrl_noStart h1 h0] using hidle) ht
      case true =>
        rw [s.writeCtrl_start_idle h1 h0 hidle]
        exact ⟨rfl, rfl, rfl, rfl⟩
  · exact absurd hidle ht
  · rw [s.writeOperand_idle r v hidle] at ht
    exact absurd hidle ht
  · exact absurd hidle ht

/-- Settles O51: a step other than a register write leaves an IDLE engine IDLE, and of the register writes START alone does not. -/
theorem engineStartsOnlyByStart : Obligations.EngineStartsOnlyByStart := by
  intro s t h hidle ht
  obtain ⟨-, hkeeps⟩ | ⟨-, -, -, hreset⟩ | ⟨r, v, rest, hin, rfl⟩ := step_ovr_idle_cases h
  · exact absurd (hkeeps hidle) ht
  · exact absurd hreset ht
  · obtain ⟨rfl, h0, h1, hengine⟩ := State.writeReg_starts (s := s.withInputs rest) hidle ht
    exact ⟨v, rest, hin, h0, h1, hengine⟩

end Sys2Proof.Machine
end

section
/-! The plan of each command, said once: the checks it has passed and the bytes it touches (20_memory.md R69, R71, R76, R78). -/

namespace Sys2Proof.Machine

/-! ### Descriptors that have passed their checks -/

theorem Descriptor.names_of_checks {d : Descriptor} {f : Format} {b : Buffer} (hfmt : checkFmt d = .ok f)
    (hshape : checkShape d f = .ok b) : d.names b := by
  obtain ⟨rfl, hwidth, hheight, hstride, hlimit⟩ := checkShape_eq_ok d f b hshape
  exact ⟨(checkFmt_eq_ok d f).1 hfmt, rfl, rfl, rfl, rfl, hwidth, hheight, hstride, hlimit⟩

/-- A descriptor names at most one buffer. -/
theorem Descriptor.names.unique {d : Descriptor} {a b : Buffer} (ha : d.names a) (hb : d.names b) : a = b := by
  obtain ⟨afmt, abase, awidth, aheight, astride, -⟩ := ha
  obtain ⟨bfmt, bbase, bwidth, bheight, bstride, -⟩ := hb
  have hfmt : a.fmt = b.fmt := Option.some.inj (afmt.symm.trans bfmt)
  cases a
  cases b
  simp_all

theorem checkPixel_eq_ok {l : Operands} {d : Descriptor} {b : Buffer} (h : checkPixel l d = .ok b) :
    d.names b ∧ l.pixX < b.width ∧ l.pixY < b.height := by
  simp only [checkPixel, except_bind_eq_ok, raiseIf_eq_ok] at h
  obtain ⟨f, hfmt, b', hshape, -, hcoords, hb⟩ := h
  cases hb
  simp only [Bool.or_eq_false_iff, decide_eq_false_iff_not, not_le] at hcoords
  exact ⟨Descriptor.names_of_checks hfmt hshape, hcoords⟩

theorem checkBoth_eq_ok {l : Operands} {between : Format → Except CmdError Unit} {s d : Buffer}
    (h : checkBoth l between = .ok (s, d)) : l.src.names s ∧ l.dst.names d ∧ between s.fmt = .ok () := by
  simp only [checkBoth, except_bind_eq_ok] at h
  obtain ⟨fs, hfs, fd, hfd, ⟨⟩, hbetween, s', hs, d', hd, h⟩ := h
  cases h
  refine ⟨Descriptor.names_of_checks hfs hs, Descriptor.names_of_checks hfd hd, ?_⟩
  obtain ⟨rfl, -⟩ := checkShape_eq_ok _ _ _ hs
  exact hbetween

theorem resampleSetup_eq_ok {l : Operands} {bicubic : Bool} {s d : Buffer}
    (h : resampleSetup l bicubic = .ok (s, d)) : l.src.names s ∧ l.dst.names d ∧ s.fmt = d.fmt := by
  simp only [resampleSetup, except_bind_eq_ok, raiseIf_eq_ok] at h
  obtain ⟨⟨s', d'⟩, hboth, -, hfmt, h⟩ := h
  cases h
  obtain ⟨hs, hd, -⟩ := checkBoth_eq_ok hboth
  exact ⟨hs, hd, by simpa using hfmt⟩

theorem Buffer.sameShape_iff {a b : Buffer} :
    a.sameShape b = true ↔ a.width = b.width ∧ a.height = b.height ∧ a.fmt = b.fmt := by
  simp [Buffer.sameShape, and_assoc]

/-- The kernel's words end within the data memory (42_convolution.md R202). -/
theorem checkKernel_eq_ok {l : Operands} {ksize : Nat} {divAuto : Bool} (h : checkKernel l ksize divAuto = .ok ()) :
    l.kernelBase.toNat + 4 * ksize * ksize ≤ 2 ^ 32 := by
  simp only [checkKernel, except_bind_eq_ok, raiseIf_eq_ok] at h
  obtain ⟨-, -, -, hextent, -⟩ := h
  exact not_lt.1 (of_decide_eq_false hextent)

/-! ### Regions and pixel bytes -/

/-- a is an address of the buffer's region, padding included (20_memory.md R69). -/
def Buffer.inRegion (b : Buffer) (a : Nat) : Prop := b.base ≤ a ∧ a < b.limit

/-- The region of a named buffer lies in data memory (20_memory.md R69). -/
theorem Descriptor.names.limit_le {d : Descriptor} {b : Buffer} (h : d.names b) : b.limit ≤ 2 ^ 32 := by
  obtain ⟨-, -, -, -, -, -, -, -, hlimit⟩ := h
  exact hlimit

theorem Descriptor.names.width_mul_bpp_le {d : Descriptor} {b : Buffer} (h : d.names b) :
    b.width * b.fmt.bpp ≤ b.stride := by
  obtain ⟨-, -, -, -, -, -, -, hstride, -⟩ := h
  exact hstride

theorem Descriptor.names.inRegion_of_isPixelByte {d : Descriptor} {b : Buffer} (h : d.names b) {a : Nat}
    (ha : b.isPixelByte a) : b.inRegion a := by
  obtain ⟨y, hy, x, hx, i, hi, rfl⟩ := ha
  exact b.pixAddr_add_lt_limit x y i h.width_mul_bpp_le hx hy hi

theorem Buffer.mem_region (b : Buffer) (a : Nat) : a ∈ b.region ↔ b.inRegion a := by
  simp [Buffer.region, Buffer.inRegion, Buffer.limit]

/-- The first bytes of a row, up to its stride, lie in the region (20_memory.md R69). -/
theorem Buffer.inRegion_row (b : Buffer) {y i : Nat} (hy : y < b.height) (hi : i < b.stride) :
    b.inRegion (b.base + y * b.stride + i) := by
  have hrow : (y + 1) * b.stride ≤ b.height * b.stride := Nat.mul_le_mul_right _ hy
  rw [Nat.succ_mul] at hrow
  unfold Buffer.inRegion Buffer.limit
  rw [Nat.mul_comm b.stride]
  omega

/-- The bytes of the overlap are exactly those of both regions (20_memory.md R78). -/
theorem Buffer.mem_overlap_iff (a b : Buffer) (n : Nat) : n ∈ a.overlap b ↔ a.inRegion n ∧ b.inRegion n := by
  unfold Buffer.overlap Buffer.inRegion
  rw [List.mem_range'_1]
  omega

theorem Buffer.mem_pixelBytes (b : Buffer) (x y a : Nat) :
    a ∈ b.pixelBytes x y ↔ ∃ i, i < b.fmt.bpp ∧ a = b.pixAddr x y + i := by
  simp [Buffer.pixelBytes, List.mem_range']

theorem Buffer.mem_allPixelBytes (b : Buffer) (a : Nat) : a ∈ b.allPixelBytes ↔ b.isPixelByte a := by
  simp only [Buffer.allPixelBytes, List.mem_flatMap, Buffer.mem_pixelBytes, Buffer.mem_pixels]
  constructor
  · rintro ⟨p, ⟨hx, hy⟩, i, hi, rfl⟩
    exact ⟨p.2, hy, p.1, hx, i, hi, rfl⟩
  · rintro ⟨y, hy, x, hx, i, hi, rfl⟩
    exact ⟨(x, y), ⟨hx, hy⟩, i, hi, rfl⟩

/-- The bytes of a pixel's lanes are the bytes of the pixel (20_memory.md R63, R67). -/
theorem Buffer.exists_lane_byte_iff (b : Buffer) (x y a : Nat) :
    (∃ l, l < b.fmt.nlanes ∧ ∃ k, k < b.fmt.laneBytes ∧ a = b.laneAddr x y l + k) ↔
      ∃ i, i < b.fmt.bpp ∧ a = b.pixAddr x y + i := by
  constructor
  · rintro ⟨l, hl, k, hk, rfl⟩
    exact ⟨_, b.fmt.laneoff_add_lt l k hl hk, Nat.add_assoc _ _ _⟩
  · rintro ⟨i, hi, rfl⟩
    rw [← b.fmt.nlanes_mul_laneBytes] at hi
    refine ⟨i / b.fmt.laneBytes, Nat.div_lt_of_lt_mul (by rwa [Nat.mul_comm]), i % b.fmt.laneBytes,
      Nat.mod_lt _ b.fmt.laneBytes_pos, ?_⟩
    rw [Buffer.laneAddr, Format.laneoff, Nat.add_assoc, Nat.div_add_mod']

/-- Writing every lane of a pixel stores every byte of it (20_memory.md R68). -/
theorem Buffer.mem_addrs_writeLanes (b : Buffer) (x y a : Nat) (v : Nat → Memory → Nat) :
    a ∈ ((List.range b.fmt.nlanes).flatMap fun l => b.laneWrite x y l (v l)).map Store.addr ↔
      ∃ i, i < b.fmt.bpp ∧ a = b.pixAddr x y + i := by
  rw [← Buffer.exists_lane_byte_iff]
  simp [Buffer.laneWrite, eq_comm, and_assoc, exists_and_left]

/-- Writing every lane of every pixel stores every pixel byte (20_memory.md R68, R76). -/
theorem Buffer.mem_addrs_writeAllLanes (b : Buffer) (a : Nat) (v : Nat × Nat → Nat → Memory → Nat) :
    a ∈ (b.pixels.flatMap fun p => (List.range b.fmt.nlanes).flatMap fun l => b.laneWrite p.1 p.2 l (v p l)).map
        Store.addr ↔ b.isPixelByte a := by
  rw [List.map_flatMap, ← Buffer.mem_allPixelBytes]
  simp only [Buffer.allPixelBytes, List.mem_flatMap, Buffer.mem_addrs_writeLanes, Buffer.mem_pixelBytes]

end Sys2Proof.Machine
end

section
/-! Sample positions stay in the source (41_resample.md R161): two roundings of a ratio of dimensions do not carry a position
that is below the source dimension past it. -/

namespace Sys2Proof.Machine

/-- Away from the subnormals, a rounding moves a value by at most one part in 2^53 (00_scope.md R9). -/
theorem round64_relative_error {q : ℚ} (hq : (2 : ℚ) ^ (-1000 : Int) ≤ |q|) : |round64 q - q| ≤ |q| / 2 ^ 53 := by
  have hne : q ≠ 0 := by
    rintro rfl
    rw [abs_zero] at hq
    exact absurd hq (not_le.2 (by positivity))
  have hbinade : -1000 < binade q + 1 := by
    have hlt := hq.trans_lt (binade_spec q hne).2
    rw [pow2_eq_zpow] at hlt
    exact (zpow_lt_zpow_iff_right₀ one_lt_two).1 hlt
  have hulp := ulp64_le_abs hne (by omega)
  have herr := round64_error q
  rw [le_div_iff₀ (by positivity)]
  linarith

/-- A value of at least 1/2^20 and its rounding agree to one part in 2^40: generous, and what positions need. -/
theorem round64_between {q : ℚ} (hq : 1 / 2 ^ 20 ≤ q) :
    q * (1 - 1 / 2 ^ 40) ≤ round64 q ∧ round64 q ≤ q * (1 + 1 / 2 ^ 40) := by
  have hpos : 0 < q := lt_of_lt_of_le (by norm_num) hq
  have hbound : (2 : ℚ) ^ (-1000 : Int) ≤ |q| := by
    rw [abs_of_pos hpos]
    refine le_trans ?_ hq
    rw [one_div, ← zpow_natCast, ← zpow_neg]
    exact zpow_le_zpow_right₀ one_le_two (by norm_num)
  have herr := abs_le.1 (round64_relative_error hbound)
  rw [abs_of_pos hpos] at herr
  constructor <;> linarith [herr.1, herr.2]

/-- A dimension is an integer that converts exactly. -/
theorem f64_dimension {n : Nat} (h : n ≤ 65535) : f64 n = (n : ℚ) :=
  f64_exact n (by rw [abs_lt]; constructor <;> omega)

/-- The position of a destination index is at least 0 and below the source dimension (41_resample.md R161). -/
theorem position_bounds {n srcDim dstDim : Nat} (hsrc : 0 < srcDim) (hsrc' : srcDim ≤ 65535) (hn : n < dstDim)
    (hdst : dstDim ≤ 65535) :
    0 ≤ position n (factor srcDim dstDim) ∧ position n (factor srcDim dstDim) < srcDim := by
  rw [position, factor, fmul, fdiv, f64_dimension hsrc', f64_dimension hdst, f64_dimension (by omega)]
  obtain rfl | hpos := Nat.eq_zero_or_pos n
  · simpa using hsrc
  have hS : (1 : ℚ) ≤ srcDim := by exact_mod_cast hsrc
  have hN : (1 : ℚ) ≤ n := by exact_mod_cast hpos
  have hND : (n : ℚ) + 1 ≤ dstDim := by exact_mod_cast hn
  have hD : (dstDim : ℚ) ≤ 65535 := by exact_mod_cast hdst
  have hD0 : (0 : ℚ) < dstDim := by linarith
  generalize (srcDim : ℚ) = S, (n : ℚ) = N, (dstDim : ℚ) = D at *
  have hratio : 1 / 65535 ≤ S / D := by
    rw [div_le_div_iff₀ (by norm_num) hD0]
    nlinarith
  obtain ⟨hfac, hfac'⟩ := round64_between (q := S / D) (by linarith)
  have hfacLow : 1 / 2 ^ 17 ≤ round64 (S / D) := by linarith
  obtain ⟨hpos, hpos'⟩ := round64_between (q := N * round64 (S / D)) (by nlinarith)
  have hND' : N * (S / D) ≤ S * (1 - 1 / 65535) := by
    rw [mul_div_assoc', div_le_iff₀ hD0]
    nlinarith
  constructor
  · nlinarith
  · have hprod : N * round64 (S / D) ≤ S * (1 - 1 / 65535) * (1 + 1 / 2 ^ 40) := by nlinarith
    calc round64 (N * round64 (S / D)) ≤ N * round64 (S / D) * (1 + 1 / 2 ^ 40) := hpos'
      _ ≤ S * (1 - 1 / 65535) * (1 + 1 / 2 ^ 40) * (1 + 1 / 2 ^ 40) := by gcongr
      _ < S := by nlinarith

/-- The source index of a destination index lies in the source (41_resample.md R161). -/
theorem nearestIndex_lt {n srcDim dstDim : Nat} (hsrc : 0 < srcDim) (hsrc' : srcDim ≤ 65535) (hn : n < dstDim)
    (hdst : dstDim ≤ 65535) : nearestIndex n (factor srcDim dstDim) < srcDim := by
  obtain ⟨hlow, hhigh⟩ := position_bounds hsrc hsrc' hn hdst
  have hfloor : ffloor (position n (factor srcDim dstDim)) < (srcDim : Int) :=
    Int.floor_lt.2 (by exact_mod_cast hhigh)
  unfold nearestIndex
  omega

end Sys2Proof.Machine
end

section
/-! What each command's plan touches: its source and its kernel are read, its destination is stored to, and the bytes two
regions share are those in both (20_memory.md R69, R71, R76, R78). -/

namespace Sys2Proof.Machine

/-! ### Dimensions -/

theorem bits_15_0_le (w : Word) : bits w 15 0 ≤ 65535 := by
  unfold bits
  omega

theorem bits_31_16_le (w : Word) : bits w 31 16 ≤ 65535 := by
  unfold bits
  omega

/-- A named buffer has between 1 and 65535 pixels along each axis (10_state.md R40, 20_memory.md R69). -/
theorem Descriptor.names.dimensions {d : Descriptor} {b : Buffer} (h : d.names b) :
    (0 < b.width ∧ b.width ≤ 65535) ∧ 0 < b.height ∧ b.height ≤ 65535 := by
  obtain ⟨-, -, hw, hh, -, hwpos, hhpos, -⟩ := h
  exact ⟨⟨hwpos, hw ▸ bits_15_0_le _⟩, hhpos, hh ▸ bits_31_16_le _⟩

/-! ### Plans that write pixels -/

theorem mem_writes_perByte (s d : Buffer) (reads : Nat → Nat → Nat → List Nat)
    (value : Nat → Nat → Nat → Memory → Byte) (a : Nat) : a ∈ (perByte s d reads value).writes ↔ d.isPixelByte a := by
  rw [← Buffer.mem_allPixelBytes]
  simp only [perByte, Plan.writes, Buffer.byteWrite, List.map_map, List.map_flatMap, Buffer.allPixelBytes,
    List.mem_flatMap, Buffer.mem_pixelBytes, List.mem_map, List.mem_range, Function.comp_apply, eq_comm]

/-- What holds of the reads of every byte of every destination pixel holds of every read. -/
theorem reads_perByte {s d : Buffer} {reads : Nat → Nat → Nat → List Nat}
    {value : Nat → Nat → Nat → Memory → Byte} {P : Nat → Prop}
    (h : ∀ x y i, x < d.width → y < d.height → i < d.fmt.bpp → ∀ a ∈ reads x y i, P a) :
    ∀ a ∈ (perByte s d reads value).reads, P a := by
  intro a ha
  simp only [perByte, List.mem_flatMap, List.mem_map, List.mem_range, Buffer.mem_pixels] at ha
  obtain ⟨_, ⟨p, ⟨hx, hy⟩, i, hi, rfl⟩, ha⟩ := ha
  exact h p.1 p.2 i hx hy hi a ha

theorem mem_writes_convolvePlan {s d : Buffer} (k : Memory → Kernel) (h : s.sameShape d = true) (a : Nat) :
    a ∈ (convolvePlan s d k).writes ↔ d.isPixelByte a := by
  obtain ⟨hwidth, hheight, hfmt⟩ := Buffer.sameShape_iff.1 h
  have hpixels : s.pixels = d.pixels := by rw [Buffer.pixels, Buffer.pixels, hwidth, hheight]
  simp only [convolvePlan, Plan.writes, hpixels, hfmt]
  exact d.mem_addrs_writeAllLanes a fun p l m => convolveLane s (k m) m p.1 p.2 l

/-! ### The kernel's words -/

/-- The addresses of the kernel words a command reads: CONVOLVE's alone (42_convolution.md R200). -/
def kernelBytesOf (i : Instr) (l : Operands) : List Nat :=
  match i with
  | .convolve k _ _ _ => kernelBytes l k
  | _ => []

theorem mem_kernelBytes (l : Operands) (k a : Nat) :
    a ∈ kernelBytes l k ↔ l.kernelBase.toNat ≤ a ∧ a < l.kernelBase.toNat + 4 * k * k := by
  rw [kernelBytes, List.mem_range'_1, Nat.mul_assoc]

theorem mem_kernelBytesOf (i : Instr) (l : Operands) (a : Nat) :
    a ∈ kernelBytesOf i l ↔ ∃ k dynDiv procAlpha divAuto, i = .convolve k dynDiv procAlpha divAuto ∧
      l.kernelBase.toNat ≤ a ∧ a < l.kernelBase.toNat + 4 * k * k := by
  cases i with
  | convolve k dynDiv procAlpha divAuto =>
    rw [kernelBytesOf, mem_kernelBytes]
    constructor
    · exact fun h => ⟨k, dynDiv, procAlpha, divAuto, rfl, h⟩
    · rintro ⟨k', _, _, _, hi, h⟩
      cases hi
      exact h
  | _ => simp [kernelBytesOf]

theorem Buffer.overlap_nonempty_iff (a b : Buffer) :
    (!(a.overlap b).isEmpty) = true ↔ ∃ n, a.inRegion n ∧ b.inRegion n := by
  rw [Bool.not_eq_true', List.isEmpty_eq_false_iff_exists_mem]
  exact exists_congr (a.mem_overlap_iff b)

theorem kernelOverlaps_iff (l : Operands) (k : Nat) (d : Buffer) :
    kernelOverlaps l k d = true ↔ ∃ n ∈ kernelBytes l k, d.inRegion n := by
  simp only [kernelOverlaps, decide_eq_true_eq, kernelBytes, List.mem_range'_1, Buffer.inRegion]
  constructor
  · intro h
    exact ⟨max l.kernelBase.toNat d.base, by omega⟩
  · rintro ⟨n, hk, hd⟩
    omega

/-! ### Two-buffer commands -/

/-- What the plan of a two-buffer command touches, s being its source and d its destination: COPY works on the regions, the
others on every byte of every pixel (20_memory.md R71, R76, R78; 40_pixel_lanes.md R126, 41_resample.md R168). -/
structure Plan.Joins (p : Plan) (i : Instr) (l : Operands) (s d : Buffer) : Prop where
  src : l.src.names s
  dst : l.dst.names d
  kernelReads : p.kernelReads = kernelBytesOf i l
  reads : ∀ a ∈ p.reads, if i = .copy then s.inRegion a else s.isPixelByte a
  writes : ∀ a ∈ p.writes, d.inRegion a
  pixelWrites : i ≠ .copy → ∀ a, a ∈ p.writes ↔ d.isPixelByte a
  overlaps : p.overlaps = true ↔ (∃ n, s.inRegion n ∧ d.inRegion n) ∨ ∃ n ∈ kernelBytesOf i l, d.inRegion n
  overlapped : ∀ n, n ∈ p.overlapped ↔ s.inRegion n ∧ d.inRegion n

/-- A plan that reads source pixels, stores every destination pixel, and reads no kernel. -/
theorem Plan.Joins.of_pixels {p : Plan} {i : Instr} {l : Operands} {s d : Buffer} (hi : i ≠ .copy)
    (hkernel : kernelBytesOf i l = []) (hsrc : l.src.names s) (hdst : l.dst.names d) (hkernelReads : p.kernelReads = [])
    (hreads : ∀ a ∈ p.reads, s.isPixelByte a) (hwrites : ∀ a, a ∈ p.writes ↔ d.isPixelByte a)
    (hoverlaps : p.overlaps = !(s.overlap d).isEmpty) (hoverlapped : p.overlapped = s.overlap d) : p.Joins i l s d where
  src := hsrc
  dst := hdst
  kernelReads := hkernelReads.trans hkernel.symm
  reads := by simpa only [if_neg hi] using hreads
  writes a ha := hdst.inRegion_of_isPixelByte ((hwrites a).1 ha)
  pixelWrites _ := hwrites
  overlaps := by
    rw [hoverlaps, Buffer.overlap_nonempty_iff, hkernel]
    simp
  overlapped n := by rw [hoverlapped, Buffer.mem_overlap_iff]

theorem copyPlan_joins {l : Operands} {p : Plan} (h : copyPlan l = .ok p) : ∃ s d, p.Joins .copy l s d := by
  simp only [copyPlan, except_bind_eq_ok, raiseIf_eq_ok] at h
  obtain ⟨⟨s, d⟩, hboth, -, hshape, h⟩ := h
  cases h
  obtain ⟨hsrc, hdst, -⟩ := checkBoth_eq_ok hboth
  obtain ⟨-, hheight, -⟩ := Buffer.sameShape_iff.1 (by simpa using hshape)
  refine ⟨s, d, hsrc, hdst, rfl, fun a ha => ?_, fun a ha => ?_, fun hi => absurd rfl hi, ?_, s.mem_overlap_iff d⟩
  · simp only [List.mem_map, List.mem_flatMap, List.mem_range] at ha
    obtain ⟨_, ⟨y, hy, j, hj, rfl⟩, rfl⟩ := ha
    exact s.inRegion_row hy (by omega)
  · simp only [Plan.writes, List.map_map, List.mem_map, List.mem_flatMap, List.mem_range] at ha
    obtain ⟨_, ⟨y, hy, j, hj, rfl⟩, rfl⟩ := ha
    exact d.inRegion_row (hheight ▸ hy) (by omega)
  · rw [Buffer.overlap_nonempty_iff]
    simp [kernelBytesOf]

theorem nearestPlan_joins {l : Operands} {p : Plan} (h : nearestPlan l = .ok p) :
    ∃ s d, p.Joins .resampleNearest l s d := by
  simp only [nearestPlan, except_bind_eq_ok] at h
  obtain ⟨⟨s, d⟩, hsetup, h⟩ := h
  cases h
  obtain ⟨hsrc, hdst, hfmt⟩ := resampleSetup_eq_ok hsetup
  obtain ⟨⟨hsw, hsw'⟩, hsh, hsh'⟩ := hsrc.dimensions
  obtain ⟨⟨-, hdw⟩, -, hdh⟩ := hdst.dimensions
  refine ⟨s, d, .of_pixels (by simp) rfl hsrc hdst rfl (reads_perByte fun x y i hx hy hi a ha => ?_)
    (mem_writes_perByte s d _ _) rfl rfl⟩
  rw [List.mem_singleton] at ha
  exact ⟨_, nearestIndex_lt hsh hsh' hy hdh, _, nearestIndex_lt hsw hsw' hx hdw, i, hfmt ▸ hi, ha⟩

/-- Both source indices of a bilinear sample lie in the source (41_resample.md R162). -/
theorem linearAxis_lt {n srcDim dstDim : Nat} (hsrc : 0 < srcDim) (hsrc' : srcDim ≤ 65535) (hn : n < dstDim)
    (hdst : dstDim ≤ 65535) :
    (linearAxis n srcDim dstDim).near < srcDim ∧ (linearAxis n srcDim dstDim).far < srcDim := by
  refine ⟨nearestIndex_lt hsrc hsrc' hn hdst, ?_⟩
  simp only [linearAxis]
  omega

theorem bilinearPlan_joins {l : Operands} {p : Plan} (h : bilinearPlan l = .ok p) :
    ∃ s d, p.Joins .resampleBilinear l s d := by
  simp only [bilinearPlan, except_bind_eq_ok] at h
  obtain ⟨⟨s, d⟩, hsetup, h⟩ := h
  cases h
  obtain ⟨hsrc, hdst, hfmt⟩ := resampleSetup_eq_ok hsetup
  obtain ⟨⟨hsw, hsw'⟩, hsh, hsh'⟩ := hsrc.dimensions
  obtain ⟨⟨-, hdw⟩, -, hdh⟩ := hdst.dimensions
  refine ⟨s, d, .of_pixels (by simp) rfl hsrc hdst rfl (reads_perByte fun x y i hx hy hi a ha => ?_)
    (mem_writes_perByte s d _ _) rfl rfl⟩
  obtain ⟨hxnear, hxfar⟩ := linearAxis_lt hsw hsw' hx hdw
  obtain ⟨hynear, hyfar⟩ := linearAxis_lt hsh hsh' hy hdh
  have hi' : i < s.fmt.bpp := hfmt ▸ hi
  simp only [List.mem_cons, List.not_mem_nil, or_false] at ha
  obtain ha | ha | ha | ha := ha
  · exact ⟨_, hynear, _, hxnear, i, hi', ha⟩
  · exact ⟨_, hynear, _, hxfar, i, hi', ha⟩
  · exact ⟨_, hyfar, _, hxnear, i, hi', ha⟩
  · exact ⟨_, hyfar, _, hxfar, i, hi', ha⟩

/-- The clamped source index of a bicubic sample lies in the source (41_resample.md R165). -/
theorem cubicIndex_lt (a : CubicAxis) (n : Int) {srcDim : Nat} (h : 0 < srcDim) : cubicIndex a n srcDim < srcDim := by
  unfold cubicIndex iclamp
  split_ifs <;> omega

theorem bicubicPlan_joins {l : Operands} {p : Plan} (h : bicubicPlan l = .ok p) :
    ∃ s d, p.Joins .resampleBicubic l s d := by
  simp only [bicubicPlan, except_bind_eq_ok] at h
  obtain ⟨⟨s, d⟩, hsetup, h⟩ := h
  cases h
  obtain ⟨hsrc, hdst, hfmt⟩ := resampleSetup_eq_ok hsetup
  obtain ⟨⟨hsw, -⟩, hsh, -⟩ := hsrc.dimensions
  refine ⟨s, d, .of_pixels (by simp) rfl hsrc hdst rfl (fun a ha => ?_) (fun a => ?_) rfl rfl⟩
  · simp only [List.mem_flatMap, List.mem_map, List.mem_range, List.mem_range'_1] at ha
    obtain ⟨_, ⟨q, -, k, hk, rfl⟩, n, -, m, -, hlow, hhigh⟩ := ha
    obtain ⟨j, rfl⟩ := Nat.exists_eq_add_of_le hlow
    exact ⟨_, cubicIndex_lt _ n hsh, _, cubicIndex_lt _ m hsw,
      (s.exists_lane_byte_iff _ _ _).1 ⟨k, hk, j, by omega, rfl⟩⟩
  · simp only [Plan.writes, List.flatMap_assoc, List.flatMap_map, hfmt]
    exact d.mem_addrs_writeAllLanes a _

theorem convPlan_joins {l : Operands} {k : Nat} {dynDiv procAlpha divAuto : Bool} {p : Plan}
    (h : convPlan l k dynDiv procAlpha divAuto = .ok p) :
    ∃ s d, p.Joins (.convolve k dynDiv procAlpha divAuto) l s d := by
  simp only [convPlan, except_bind_eq_ok, raiseIf_eq_ok] at h
  obtain ⟨⟨s, d⟩, hboth, -, hshape, h⟩ := h
  cases h
  obtain ⟨hsrc, hdst, -⟩ := checkBoth_eq_ok hboth
  have hwrites := mem_writes_convolvePlan (memoryKernel l k dynDiv procAlpha divAuto) (by simpa using hshape)
  refine ⟨s, d, hsrc, hdst, rfl, fun a ha => ?_, fun a ha => ?_, fun _ => hwrites, ?_, s.mem_overlap_iff d⟩
  · rw [if_neg (by simp)]
    exact (s.mem_allPixelBytes a).1 ha
  · exact hdst.inRegion_of_isPixelByte ((hwrites a).1 ha)
  · rw [Bool.or_eq_true, kernelOverlaps_iff]
    exact or_congr_left (s.overlap_nonempty_iff d)

/-- The kernel words of a CONVOLVE that has passed its checks lie in data memory (42_convolution.md R202). -/
theorem convPlan_kernel_le {l : Operands} {k : Nat} {dynDiv procAlpha divAuto : Bool} {p : Plan}
    (h : convPlan l k dynDiv procAlpha divAuto = .ok p) : l.kernelBase.toNat + 4 * k * k ≤ 2 ^ 32 := by
  simp only [convPlan, except_bind_eq_ok] at h
  obtain ⟨⟨s, d⟩, hboth, -⟩ := h
  obtain ⟨-, -, hkernel⟩ := checkBoth_eq_ok hboth
  exact checkKernel_eq_ok hkernel

/-- The plan of DETECT_BLUR is the Laplacian's convolution with the report of its greatest output (43_edge_detect.md R231). -/
theorem blurPlan_eq_ok {l : Operands} {p : Plan} (h : blurPlan l = .ok p) :
    ∃ s d, l.src.names s ∧ l.dst.names d ∧ s.sameShape d = true ∧
      p = { convolvePlan s d (fun _ => laplacian) with
        result := .blur l.edgeThreshold s.fmt.lanemax (maxGradientOf s) } := by
  simp only [blurPlan, except_bind_eq_ok, raiseIf_eq_ok] at h
  obtain ⟨⟨s, d⟩, hboth, -, hshape, h⟩ := h
  cases h
  obtain ⟨hsrc, hdst, -⟩ := checkBoth_eq_ok hboth
  exact ⟨s, d, hsrc, hdst, by simpa using hshape, rfl⟩

theorem blurPlan_joins {l : Operands} {p : Plan} (h : blurPlan l = .ok p) : ∃ s d, p.Joins .detectBlur l s d := by
  obtain ⟨s, d, hsrc, hdst, hshape, rfl⟩ := blurPlan_eq_ok h
  exact ⟨s, d, .of_pixels (by simp) rfl hsrc hdst rfl (fun a => (s.mem_allPixelBytes a).1)
    (mem_writes_convolvePlan _ hshape) rfl rfl⟩

/-- What every two-buffer command touches. -/
theorem commandPlan_joins {i : Instr} {l : Operands} {p : Plan} (hi : hasTwoBuffers i = true)
    (h : commandPlan i l = .ok p) : ∃ s d, p.Joins i l s d := by
  cases i with
  | nop | clear | getPixel | setPixel => cases hi
  | copy => exact copyPlan_joins h
  | resampleNearest => exact nearestPlan_joins h
  | resampleBilinear => exact bilinearPlan_joins h
  | resampleBicubic => exact bicubicPlan_joins h
  | convolve k dynDiv procAlpha divAuto => exact convPlan_joins h
  | detectBlur => exact blurPlan_joins h

/-! ### One-buffer commands -/

/-- The stores of CLEAR are the bytes of the destination region (40_pixel_lanes.md R122). -/
theorem clearPlan_writes {l : Operands} {p : Plan} (h : clearPlan l = .ok p) :
    ∃ d, l.dst.names d ∧ ∀ a ∈ p.writes, d.inRegion a := by
  simp only [clearPlan, except_bind_eq_ok] at h
  obtain ⟨f, hfmt, d, hshape, h⟩ := h
  cases h
  refine ⟨d, Descriptor.names_of_checks hfmt hshape, fun a ha => ?_⟩
  rw [← Buffer.mem_region]
  simpa [Plan.writes] using ha

/-- The reads of GET_PIXEL are the bytes of a pixel of the source (40_pixel_lanes.md R123). -/
theorem getPixelPlan_reads {l : Operands} {p : Plan} (h : getPixelPlan l = .ok p) :
    ∃ s, l.src.names s ∧ ∀ a ∈ p.reads, s.isPixelByte a := by
  simp only [getPixelPlan, except_bind_eq_ok] at h
  obtain ⟨s, hpixel, h⟩ := h
  cases h
  obtain ⟨hsrc, hx, hy⟩ := checkPixel_eq_ok hpixel
  exact ⟨s, hsrc, fun a ha => ⟨_, hy, _, hx, (s.mem_pixelBytes _ _ a).1 ha⟩⟩

/-- The stores of SET_PIXEL are the bytes of a pixel of the destination (40_pixel_lanes.md R124). -/
theorem setPixelPlan_writes {l : Operands} {p : Plan} (h : setPixelPlan l = .ok p) :
    ∃ d, l.dst.names d ∧ ∀ a ∈ p.writes, d.isPixelByte a := by
  simp only [setPixelPlan, except_bind_eq_ok] at h
  obtain ⟨d, hpixel, h⟩ := h
  cases h
  obtain ⟨hdst, hx, hy⟩ := checkPixel_eq_ok hpixel
  exact ⟨d, hdst, fun a ha => ⟨_, hy, _, hx, (d.mem_addrs_writeLanes _ _ a _).1 ha⟩⟩

/-- What a one-buffer command does not touch: no kernel, no overlap, and at most one of its buffers. -/
theorem commandPlan_oneBuffer {i : Instr} {l : Operands} {p : Plan} (hi : hasTwoBuffers i = false)
    (h : commandPlan i l = .ok p) :
    p.kernelReads = [] ∧ p.overlaps = false ∧ p.overlapped = [] ∧ (i ≠ .getPixel → p.reads = []) ∧
      (i ≠ .clear → i ≠ .setPixel → p.writes = []) := by
  cases i with
  | nop =>
    cases h
    simp [Plan.empty, Plan.writes]
  | clear =>
    simp only [commandPlan, clearPlan, except_bind_eq_ok] at h
    obtain ⟨_, -, _, -, h⟩ := h
    cases h
    simp [Plan.empty]
  | getPixel =>
    simp only [commandPlan, getPixelPlan, except_bind_eq_ok] at h
    obtain ⟨_, -, h⟩ := h
    cases h
    simp [Plan.empty, Plan.writes]
  | setPixel =>
    simp only [commandPlan, setPixelPlan, except_bind_eq_ok] at h
    obtain ⟨_, -, h⟩ := h
    cases h
    simp [Plan.empty]
  | copy | resampleNearest | resampleBilinear | resampleBicubic | convolve | detectBlur => cases hi

end Sys2Proof.Machine
end

section
/-! The obligations on what a command reads, stores and shares (20_memory.md R69, R71, R76, R78). -/

namespace Sys2Proof.Machine

/-- Every store of a command lies in its destination's region; SET_PIXEL's, RESAMPLE's, CONVOLVE's and DETECT_BLUR's are pixel
bytes (20_memory.md R76). -/
theorem commandPlan_writes {i : Instr} {l : Operands} {p : Plan} (h : commandPlan i l = .ok p) {a : Nat}
    (ha : a ∈ p.writes) :
    ∃ d, l.dst.names d ∧ d.inRegion a ∧ (i ≠ .clear → i ≠ .copy → d.isPixelByte a) := by
  cases hi : hasTwoBuffers i with
  | true =>
    obtain ⟨s, d, hp⟩ := commandPlan_joins hi h
    exact ⟨d, hp.dst, hp.writes a ha, fun _ hcopy => (hp.pixelWrites hcopy a).1 ha⟩
  | false =>
    by_cases hclear : i = .clear
    · subst hclear
      obtain ⟨d, hdst, hwrites⟩ := clearPlan_writes h
      exact ⟨d, hdst, hwrites a ha, fun hne => absurd rfl hne⟩
    by_cases hset : i = .setPixel
    · subst hset
      obtain ⟨d, hdst, hwrites⟩ := setPixelPlan_writes h
      exact ⟨d, hdst, hdst.inRegion_of_isPixelByte (hwrites a ha), fun _ _ => hwrites a ha⟩
    · obtain ⟨-, -, -, -, hwrites⟩ := commandPlan_oneBuffer hi h
      rw [hwrites hclear hset] at ha
      cases ha

/-- Settles O38: each store lies in the region, which its descriptor's checks keep in data memory, and a two-buffer command but
COPY stores exactly the pixel bytes. -/
theorem storesStayInDestination : Obligations.StoresStayInDestination := by
  intro i l p h
  refine ⟨fun a ha => ?_, fun b hb hi hcopy a ha => ?_⟩
  · obtain ⟨d, hdst, ⟨hlow, hhigh⟩, hpixel⟩ := commandPlan_writes h ha
    exact ⟨d, hdst, hlow, hhigh, hdst.limit_le, hpixel⟩
  · obtain ⟨s, d, hp⟩ := commandPlan_joins hi h
    obtain rfl := hb.unique hp.dst
    exact (hp.pixelWrites hcopy a).2 ha

theorem commandPlan_kernelReads {i : Instr} {l : Operands} {p : Plan} (h : commandPlan i l = .ok p) :
    p.kernelReads = kernelBytesOf i l := by
  cases hi : hasTwoBuffers i with
  | true =>
    obtain ⟨s, d, hp⟩ := commandPlan_joins hi h
    exact hp.kernelReads
  | false =>
    obtain ⟨hkernel, -⟩ := commandPlan_oneBuffer hi h
    rw [hkernel]
    cases i with
    | nop | clear | getPixel | setPixel => rfl
    | copy | resampleNearest | resampleBilinear | resampleBicubic | convolve | detectBlur => cases hi

/-- Settles O39: each two-buffer command reads its source and its kernel, and of the others GET_PIXEL alone reads. -/
theorem readsStayInSource : Obligations.ReadsStayInSource := by
  intro i l p h
  refine ⟨fun a ha => ?_, fun a ha => ?_⟩
  · cases hi : hasTwoBuffers i with
    | true =>
      obtain ⟨s, d, hp⟩ := commandPlan_joins hi h
      exact ⟨s, hp.src, hp.reads a ha⟩
    | false =>
      by_cases hget : i = .getPixel
      · subst hget
        obtain ⟨s, hsrc, hreads⟩ := getPixelPlan_reads h
        exact ⟨s, hsrc, hreads a ha⟩
      · obtain ⟨-, -, -, hreads, -⟩ := commandPlan_oneBuffer hi h
        rw [hreads hget] at ha
        cases ha
  · rw [commandPlan_kernelReads h, mem_kernelBytesOf] at ha
    obtain ⟨k, dynDiv, procAlpha, divAuto, rfl, hlow, hhigh⟩ := ha
    exact ⟨k, dynDiv, procAlpha, divAuto, rfl, hlow, hhigh, convPlan_kernel_le h⟩

/-- Settles O40: the overlap of a two-buffer command's plan is that of its named buffers, and no other plan has one. -/
theorem overlapIsSharedByte : Obligations.OverlapIsSharedByte := by
  intro i l p h
  refine ⟨fun hi => ?_, fun a b hi ha hb => ?_⟩
  · obtain ⟨-, hoverlaps, hoverlapped, -⟩ := commandPlan_oneBuffer hi h
    exact ⟨hoverlaps, hoverlapped⟩
  · obtain ⟨s, d, hp⟩ := commandPlan_joins hi h
    obtain rfl := ha.unique hp.src
    obtain rfl := hb.unique hp.dst
    refine ⟨?_, fun n => by rw [hp.overlapped, Buffer.inRegion, Buffer.inRegion, and_assoc]⟩
    rw [hp.overlaps]
    refine or_congr ?_ ?_
    · simp only [Buffer.inRegion, and_assoc]
    · simp only [mem_kernelBytesOf]
      constructor
      · rintro ⟨n, ⟨k, dynDiv, procAlpha, divAuto, hconv, hlow, hhigh⟩, hd, hd'⟩
        exact ⟨k, dynDiv, procAlpha, divAuto, n, hconv, hlow, hhigh, hd, hd'⟩
      · rintro ⟨k, dynDiv, procAlpha, divAuto, n, hconv, hlow, hhigh, hd⟩
        exact ⟨n, ⟨k, dynDiv, procAlpha, divAuto, hconv, hlow, hhigh⟩, hd⟩

end Sys2Proof.Machine
end

section
/-! What the end of a command does to data memory and to the error registers (20_memory.md R77 to R79,
60_exceptions.md R255). -/

namespace Sys2Proof.Machine

/-! ### The two ends without an error -/

/-- The end of a command that did as its rule says, some bytes of its destination having been written by the host
(20_memory.md R77, R79). -/
def State.specifiedEnd (s : State) (p : Plan) (spoiled : List Nat) : State :=
  (((s.withMem (s.mem.writeAll (p.cells s.mem))).spoilWritten spoiled).writeResult p.result s.mem).complete

/-- The end of a command whose outputs are all unspecified (20_memory.md R77, R78). -/
def State.unspecifiedEnd (s : State) (p : Plan) : State :=
  ((s.unspecify p.mayChange).writeFreeResult p.result p.reads).complete

theorem State.applyPlan_unspecified {s : State} {p : Plan} (h : p.overlaps = true ∨ s.breach.sourceWritten = true) :
    s.applyPlan p = s.unspecifiedEnd p := if_pos (by simpa using h)

theorem State.applyPlan_specified {s : State} {p : Plan} (ho : p.overlaps = false)
    (hs : s.breach.sourceWritten = false) : s.applyPlan p = s.specifiedEnd p s.breach.destWritten :=
  if_neg (by simp [ho, hs])

theorem State.applyPlan_cases (s : State) (p : Plan) :
    s.applyPlan p = s.unspecifiedEnd p ∨ s.applyPlan p = s.specifiedEnd p s.breach.destWritten := by
  unfold State.applyPlan
  split
  · exact .inl rfl
  · exact .inr rfl

/-! ### Data memory -/

@[simp] theorem State.writeResult_mem (s : State) (r : Result) (m : Memory) : (s.writeResult r m).mem = s.mem := by
  cases r <;> rfl

@[simp] theorem State.writeFreeResult_mem (s : State) (r : Result) (reads : List Nat) :
    (s.writeFreeResult r reads).mem = s.mem := by
  cases r <;> rfl

@[simp] theorem State.spoilWritten_mem (s : State) (addrs : List Nat) :
    (s.spoilWritten addrs).mem = s.mem.scramble s.draws addrs := by
  cases addrs <;> rfl

@[simp] theorem State.specifiedEnd_mem (s : State) (p : Plan) (spoiled : List Nat) :
    (s.specifiedEnd p spoiled).mem = (s.mem.writeAll (p.cells s.mem)).scramble s.draws spoiled := by
  simp [State.specifiedEnd]

@[simp] theorem State.unspecifiedEnd_mem (s : State) (p : Plan) :
    (s.unspecifiedEnd p).mem = s.mem.scramble s.draws p.mayChange := by
  simp [State.unspecifiedEnd]

theorem State.read_unspecifiedEnd {s : State} {p : Plan} (hwf : s.mem.wf = true) {a : Nat} (ha : a ∉ p.mayChange) :
    (s.unspecifiedEnd p).mem.read a = s.mem.read a := by
  rw [State.unspecifiedEnd_mem, Memory.read_scramble_of_not_mem _ _ _ _ hwf ha]

/-- The bytes the host wrote aside, memory is as the command's rule says. -/
theorem State.read_specifiedEnd {s : State} (p : Plan) {spoiled : List Nat} (hwf : s.mem.wf = true) {a : Nat}
    (ha : a ∉ spoiled) : (s.specifiedEnd p spoiled).mem.read a = (s.mem.writeAll (p.cells s.mem)).read a := by
  rw [State.specifiedEnd_mem, Memory.read_scramble_of_not_mem _ _ _ _ (Memory.writeAll_wf _ _ hwf) ha]

/-- However a command ends, the bytes it may not change keep their values (20_memory.md R76, R78). -/
theorem State.read_runPlan {s : State} {p : Plan} (hwf : s.mem.wf = true)
    (hspoiled : ∀ a ∈ s.breach.destWritten, a ∈ p.mayChange) {a : Nat} (ha : a ∉ p.mayChange) :
    (s.runPlan p).mem.read a = s.mem.read a := by
  obtain ⟨b, -, hrun⟩ | ⟨b, -, hrun⟩ | ⟨-, -, hrun⟩ := s.runPlan_cases p <;> rw [hrun]
  · rfl
  · exact Memory.read_scramble_of_not_mem _ _ _ _ hwf ha
  · obtain happly | happly := s.applyPlan_cases p <;> rw [happly]
    · exact State.read_unspecifiedEnd hwf ha
    · rw [State.read_specifiedEnd p hwf fun hmem => ha (hspoiled a hmem)]
      exact Plan.read_other p s.mem a hwf fun hmem => ha (List.mem_append_left _ hmem)

/-- Settles O37: a command that has passed its checks is its plan, run. -/
theorem commandKeepsOtherBytes : Obligations.CommandKeepsOtherBytes := by
  intro i s t p hwf hplan hspoiled h a ha
  rw [exec_eq_runCommand, hplan, State.runCommand_ok] at h
  cases h
  exact State.read_runPlan hwf hspoiled ha

/-! ### The error registers -/

/-- ERR, ERR_CODE and ERR_INFO (10_state.md R35, R37, R39). -/
def State.errorReport (s : State) : Bool × Option CmdError × Word := (s.err, s.errCode, s.errInfo)

@[simp] theorem State.writeResult_errorReport (s : State) (r : Result) (m : Memory) :
    (s.writeResult r m).errorReport = s.errorReport := by
  cases r <;> rfl

@[simp] theorem State.writeFreeResult_errorReport (s : State) (r : Result) (reads : List Nat) :
    (s.writeFreeResult r reads).errorReport = s.errorReport := by
  cases r <;> rfl

@[simp] theorem State.spoilWritten_errorReport (s : State) (addrs : List Nat) :
    (s.spoilWritten addrs).errorReport = s.errorReport := by
  cases addrs <;> rfl

/-- A command none of whose accesses is refused reports no error (10_state.md R47). -/
theorem State.applyPlan_errorReport (s : State) (p : Plan) : (s.applyPlan p).errorReport = s.errorReport := by
  obtain happly | happly := s.applyPlan_cases p <;> rw [happly]
  · exact State.writeFreeResult_errorReport _ _ _
  · exact (State.writeResult_errorReport _ _ _).trans (State.spoilWritten_errorReport _ _)

/-! ### A host's writes -/

theorem State.runPlan_of_admitted {s : State} {p : Plan}
    (hread : ∀ a ∈ p.kernelReads ++ p.reads, memOK s.platform .read a = true)
    (hwrite : ∀ a ∈ p.writes, memOK s.platform .write a = true) : s.runPlan p = s.applyPlan p := by
  obtain ⟨a, ha, -⟩ | ⟨a, ha, -⟩ | ⟨-, -, hrun⟩ := s.runPlan_cases p
  · obtain ⟨hmem, hrefused⟩ := (s.mem_refusedKernel p a).1 ha
    simp [hread a (List.mem_append_left _ hmem)] at hrefused
  · obtain ⟨hmem, hrefused⟩ | ⟨hmem, hrefused⟩ := (s.mem_refusedPixels p a).1 ha
    · simp [hread a (List.mem_append_right _ hmem)] at hrefused
    · simp [hwrite a hmem] at hrefused
  · exact hrun

@[simp] theorem State.withBreach_latched (s : State) (b : Breach) : (s.withBreach b).latched = s.latched := by
  cases h : s.engine <;> simp [State.latched, State.withBreach, h]

@[simp] theorem State.withBreach_none_breach (s : State) : (s.withBreach Breach.none).breach = Breach.none := by
  cases h : s.engine <;> simp [State.breach, State.withBreach, h]

/-- Apart from memory and the count of draws, the end of a command does not depend on the record of the host's writes. -/
theorem State.specifiedEnd_withBreach (s : State) (p : Plan) (spoiled : List Nat) (b : Breach) :
    s.specifiedEnd p spoiled =
      { (s.withBreach b).specifiedEnd p [] with
        mem := (s.specifiedEnd p spoiled).mem, draws := (s.specifiedEnd p spoiled).draws } := by
  rw [State.withBreach_eq]
  obtain ⟨_, _, _, _, _, result⟩ := p
  cases spoiled <;> cases result <;> rfl

/-- An unspecified MAX_GRADIENT is a lane value, and BLUR_RESULT follows from it (43_edge_detect.md R231, R232). -/
theorem State.unspecifiedEnd_blur (s : State) {p : Plan} {edgeThreshold : Word} {lanemax : Nat} {g : Memory → Nat}
    (h : p.result = .blur edgeThreshold lanemax g) :
    (s.unspecifiedEnd p).maxGradient.toNat ≤ lanemax ∧ (s.unspecifiedEnd p).blurValid = true ∧
      (s.unspecifiedEnd p).isBlurred = decide ((s.unspecifiedEnd p).maxGradient.toNat < edgeThreshold.toNat) := by
  simp only [State.unspecifiedEnd, State.writeFreeResult, h, State.complete_maxGradient, State.complete_blurValid,
    State.complete_isBlurred, State.nextDraw_maxGradient, State.nextDraw_blurValid, State.nextDraw_isBlurred,
    State.writeBlur_maxGradient, State.writeBlur_blurValid, State.writeBlur_isBlurred, isBlurredFlag, true_and]
  refine ⟨?_, by simp [← decide_not]⟩
  rw [BitVec.toNat_ofNat]
  exact (Nat.mod_le _ _).trans (Nat.le_of_lt_succ (Nat.mod_lt _ (Nat.succ_pos _)))

/-- Settles O41: with every access admitted a command ends without an error, in the unspecified end where its outputs are all
unspecified, and otherwise in the specified end, which the host's writes to the destination change in their bytes alone. -/
theorem unspecifiedOutputStillEnds : Obligations.UnspecifiedOutputStillEnds := by
  intro i s p hwf hplan hread hwrite
  have hexec : exec i s = .next (s.applyPlan p) := by
    rw [exec_eq_runCommand, hplan, State.runCommand_ok, State.runPlan_of_admitted hread hwrite]
  obtain ⟨hengine, hdone⟩ := s.applyPlan_ended p
  have herror := s.applyPlan_errorReport p
  simp only [State.errorReport, Prod.mk.injEq] at herror
  obtain ⟨herr, herrCode, herrInfo⟩ := herror
  refine ⟨_, hexec, hengine, hdone, herr, herrCode, herrInfo, fun hopen => ?_, fun ho hs => ?_⟩
  · rw [State.applyPlan_unspecified hopen]
    refine ⟨fun a ha => State.read_unspecifiedEnd hwf ha, ?_⟩
    rintro rfl b hb
    obtain ⟨src, -, hsrc, -, -, rfl⟩ := blurPlan_eq_ok hplan
    obtain rfl := hb.unique hsrc
    exact s.unspecifiedEnd_blur rfl
  · have hquiet : exec i (s.withBreach Breach.none) = .next ((s.withBreach Breach.none).specifiedEnd p []) := by
      rw [exec_eq_runCommand, State.withBreach_latched, hplan, State.runCommand_ok,
        State.runPlan_of_admitted (by simpa using hread) (by simpa using hwrite), State.applyPlan_specified ho]
      · rw [State.withBreach_none_breach]
        rfl
      · rw [State.withBreach_none_breach]
        rfl
    rw [State.applyPlan_specified ho hs]
    refine ⟨_, hquiet, s.specifiedEnd_withBreach p _ _, fun a ha => ?_⟩
    rw [State.read_specifiedEnd p hwf ha, State.read_specifiedEnd p (by simpa using hwf) (by simp), State.withBreach_mem]

end Sys2Proof.Machine
end

section
/-! The host's own accesses to data memory, while the engine is IDLE and while a command is in progress (20_memory.md R61,
R77). -/

namespace Sys2Proof.Machine

/-! ### The step at an access -/

theorem step_memRead {s : State} {a : Nat} {rest : List Input} (h : s.inputs = .memRead a :: rest) (ha : a < 2 ^ 32) :
    step s = .next ((s.withInputs rest).hostRead a) := by
  simp only [step, State.turn, h]
  exact if_pos ha

theorem step_memWrite {s : State} {a : Nat} {v : Byte} {rest : List Input} (h : s.inputs = .memWrite a v :: rest)
    (ha : a < 2 ^ 32) : step s = .next ((s.withInputs rest).hostWrite a v) := by
  simp only [step, State.turn, h]
  exact if_pos ha

/-- An address of 2^32 or more does not exist (20_memory.md R61; log 13). -/
theorem step_memory_fault {s : State} {a : Nat} {v : Byte} {rest : List Input}
    (h : s.inputs = .memRead a :: rest ∨ s.inputs = .memWrite a v :: rest) (ha : 2 ^ 32 ≤ a) :
    step s = .fault .noSuchMemoryAddress := by
  obtain h | h := h <;> simp only [step, State.turn, h] <;> exact if_neg (not_lt.2 ha)

/-! ### A read -/

theorem State.hostRead_other {s : State} {a : Nat} (hread : a ∉ s.mayRead) (hchange : a ∉ s.mayChange) :
    s.hostRead a = s.output (.byte (s.mem.read a)) := if_neg (by simp [hread, hchange])

theorem State.hostRead_own {s : State} {a : Nat} (h : a ∈ s.mayRead ∨ a ∈ s.mayChange) :
    s.hostRead a = (s.output (.byte (Config.freeByte s.draws a))).nextDraw := if_pos h

/-! ### A write -/

/-- The record after a host write to a (item I5; log 11). -/
def State.breachAfterWrite (s : State) (a : Nat) : Breach :=
  { sourceWritten := s.breach.sourceWritten || decide (a ∈ s.mayRead)
    destWritten := if a ∈ s.mayChange then a :: s.breach.destWritten else s.breach.destWritten }

theorem State.hostWrite_other {s : State} {a : Nat} (v : Byte) (h : a ∉ s.mayChange) :
    s.hostWrite a v = (s.withMem (s.mem.write a v)).withBreach (s.breachAfterWrite a) := by
  simp only [State.hostWrite, State.breachAfterWrite, if_neg h]

theorem State.hostWrite_own {s : State} {a : Nat} (v : Byte) (h : a ∈ s.mayChange) :
    s.hostWrite a v = (s.unspecify [a]).withBreach (s.breachAfterWrite a) := by
  simp only [State.hostWrite, State.breachAfterWrite, if_pos h]

/-- What a host write does beside memory and the count of draws: it updates the record. -/
theorem State.hostWrite_eq (s : State) (a : Nat) (v : Byte) :
    s.hostWrite a v =
      { s.withBreach (s.breachAfterWrite a) with mem := (s.hostWrite a v).mem, draws := (s.hostWrite a v).draws } := by
  by_cases h : a ∈ s.mayChange
  · rw [State.hostWrite_own v h, State.withBreach_eq, State.withBreach_eq]
    rfl
  · rw [State.hostWrite_other v h, State.withBreach_eq, State.withBreach_eq]
    rfl

theorem State.read_hostWrite_ne {s : State} {a b : Nat} (v : Byte) (hwf : s.mem.wf = true) (hb : b ≠ a) :
    (s.hostWrite a v).mem.read b = s.mem.read b := by
  by_cases h : a ∈ s.mayChange
  · rw [State.hostWrite_own v h, State.withBreach_mem]
    exact Memory.read_scramble_of_not_mem _ _ _ _ hwf (by simpa using hb)
  · rw [State.hostWrite_other v h, State.withBreach_mem, State.withMem_mem, Memory.read_write _ _ _ _ hwf, if_neg hb]

theorem State.read_hostWrite_same {s : State} {a : Nat} (v : Byte) (hwf : s.mem.wf = true) (h : a ∉ s.mayChange) :
    (s.hostWrite a v).mem.read a = v := by
  rw [State.hostWrite_other v h, State.withBreach_mem, State.withMem_mem, Memory.read_write _ _ _ _ hwf, if_pos rfl]

/-! ### IDLE and BUSY -/

/-- With no command in progress there is no byte of a command (60_exceptions.md R272). -/
theorem State.not_mem_of_idle {s : State} (h : s.engine = .idle) (a : Nat) : a ∉ s.mayRead ∧ a ∉ s.mayChange := by
  simp [State.mayRead, State.mayChange, State.runningPlan, h, Plan.empty, Plan.mayChange, Plan.writes]

theorem State.withBreach_of_idle {s : State} (b : Breach) (h : s.engine = .idle) : s.withBreach b = s := by
  simp only [State.withBreach, h]

theorem State.withBreach_engine_of_busy {s : State} {l : Operands} {br : Breach} (b : Breach)
    (h : s.engine = .busy l br) : (s.withBreach b).engine = .busy l b := by
  simp only [State.withBreach, h]

/-- Settles O59: an IDLE engine has no byte of its own, so an access is a plain read or write, and it keeps no record. -/
theorem hostMemoryAccessWhileIdle : Obligations.HostMemoryAccessWhileIdle := by
  intro s a v rest hwf hidle
  obtain ⟨hread, hchange⟩ := State.not_mem_of_idle (s := s.withInputs rest) hidle a
  refine ⟨fun h ha => ?_, fun h ha => ⟨s.mem.write a v, ?_, fun b => Memory.read_write s.mem a b v hwf⟩,
    step_memory_fault⟩
  · rw [step_memRead h ha, State.hostRead_other hread hchange]
    rfl
  · rw [step_memWrite h ha, State.hostWrite_other v hchange,
      State.withBreach_of_idle (s := (s.withInputs rest).withMem _) _ hidle]
    rfl

/-- Settles O60: a write changes the byte, or leaves it unspecified where it is the command's, and the record; a read changes
nothing but what is returned. -/
theorem hostMemoryAccessWhileBusy : Obligations.HostMemoryAccessWhileBusy := by
  intro s l br a v rest hwf hbusy ha
  refine ⟨fun h => ⟨_, step_memWrite h ha, fun b hb => State.read_hostWrite_ne v hwf hb,
    fun hchange => State.read_hostWrite_same v hwf hchange, ?_⟩, fun h => ?_⟩
  · have hbreach : s.breach = br := by simp only [State.breach, hbusy]
    have hengine := State.withBreach_engine_of_busy (s := s.withInputs rest) ((s.withInputs rest).breachAfterWrite a) hbusy
    rw [State.hostWrite_eq]
    refine ⟨?_, State.withBreach_operands _ _, State.withBreach_inputs _ _, State.withBreach_outputs _ _⟩
    rw [← hbreach]
    exact hengine
  · have hstep := step_memRead h ha
    by_cases hown : a ∈ s.mayRead ∨ a ∈ s.mayChange
    · rw [State.hostRead_own (s := s.withInputs rest) hown] at hstep
      exact ⟨_, _, hstep, rfl, rfl, rfl, rfl, rfl, fun hread hchange => absurd hown (not_or.2 ⟨hread, hchange⟩)⟩
    · obtain ⟨hread, hchange⟩ := not_or.1 hown
      rw [State.hostRead_other (s := s.withInputs rest) hread hchange] at hstep
      exact ⟨_, _, hstep, rfl, rfl, rfl, rfl, rfl, fun _ _ => rfl⟩

end Sys2Proof.Machine
end

section
/-! Every step keeps the invariant (20_memory.md R61, 10_state.md R35 to R48): data memory stays canonical and in the address
space, and the registers stay consistent, operation by operation. -/

namespace Sys2Proof.Machine

/-! ### Data memory stays canonical and in the address space -/

/-- The memory is in its canonical form and lists only bytes that exist (20_memory.md R61). -/
structure Memory.Fits (m : Memory) : Prop where
  canonical : m.wf = true
  inSpace : m.inSpace = true

theorem Memory.Fits.write {m : Memory} (h : m.Fits) {a : Nat} (v : Byte) (ha : a < Config.memorySize) :
    (m.write a v).Fits :=
  ⟨m.write_wf a v h.canonical, m.write_inSpace a v h.inSpace ha⟩

theorem Memory.Fits.writeAll {m : Memory} (h : m.Fits) {cs : List Host.Cell} (hcs : ∀ c ∈ cs, c.1 < Config.memorySize) :
    (m.writeAll cs).Fits :=
  ⟨m.writeAll_wf cs h.canonical, m.writeAll_inSpace cs h.inSpace hcs⟩

theorem Memory.Fits.scramble {m : Memory} (h : m.Fits) (n : Nat) {addrs : List Nat}
    (haddrs : ∀ a ∈ addrs, a < Config.memorySize) : (m.scramble n addrs).Fits :=
  ⟨m.scramble_wf n addrs h.canonical, m.scramble_inSpace n addrs h.inSpace haddrs⟩

/-- A command may change only bytes that exist (20_memory.md R69, R76, R78). -/
theorem commandPlan_mayChange_lt {i : Instr} {l : Operands} {p : Plan} (h : commandPlan i l = .ok p) :
    ∀ a ∈ p.mayChange, a < Config.memorySize := by
  intro a ha
  obtain ⟨d, hdst, -, hlt⟩ : ∃ d, l.dst.names d ∧ d.inRegion a := by
    obtain hwrites | hoverlapped := List.mem_append.1 ha
    · obtain ⟨d, hdst, hregion, -⟩ := commandPlan_writes h hwrites
      exact ⟨d, hdst, hregion⟩
    · cases hi : hasTwoBuffers i with
      | true =>
        obtain ⟨s, d, hp⟩ := commandPlan_joins hi h
        obtain ⟨-, hregion⟩ := (hp.overlapped a).1 hoverlapped
        exact ⟨d, hp.dst, hregion⟩
      | false =>
        obtain ⟨-, -, hnone, -⟩ := commandPlan_oneBuffer hi h
        rw [hnone] at hoverlapped
        cases hoverlapped
  exact hlt.trans_le hdst.limit_le

/-- The command in progress has a plan that passed its checks, or touches nothing (60_exceptions.md R255). -/
theorem State.runningPlan_cases (s : State) :
    s.runningPlan = Plan.empty ∨ ∃ i l, commandPlan i l = .ok s.runningPlan := by
  unfold State.runningPlan
  split
  case h_1 => exact .inl rfl
  case h_2 l b _ =>
    split
    case h_1 => exact .inl rfl
    case h_2 i _ =>
      split
      case h_1 => exact .inl rfl
      case h_2 p hp => exact .inr ⟨i, l, hp⟩

theorem State.mayChange_lt (s : State) : ∀ a ∈ s.mayChange, a < Config.memorySize := by
  unfold State.mayChange
  obtain hempty | ⟨i, l, hplan⟩ := s.runningPlan_cases
  · rw [hempty]
    exact fun a ha => by cases ha
  · exact commandPlan_mayChange_lt hplan

@[simp] theorem State.abort_mem (s : State) : s.abort.mem = s.mem.scramble s.draws s.mayChange := by
  unfold State.abort
  split
  case h_1 h =>
    rw [h]
    rfl
  case h_2 h =>
    rw [h]
    rfl

theorem State.hostWrite_fits {s : State} {a : Nat} (v : Byte) (h : s.mem.Fits) (ha : a < Config.memorySize) :
    (s.hostWrite a v).mem.Fits := by
  by_cases hown : a ∈ s.mayChange
  · rw [State.hostWrite_own v hown, State.withBreach_mem]
    exact h.scramble s.draws (by simpa using ha)
  · rw [State.hostWrite_other v hown, State.withBreach_mem]
    exact h.write v ha

theorem State.applyPlan_fits {s : State} {p : Plan} (h : s.mem.Fits)
    (hspoiled : ∀ a ∈ s.breach.destWritten, a < Config.memorySize) (hp : ∀ a ∈ p.mayChange, a < Config.memorySize) :
    (s.applyPlan p).mem.Fits := by
  obtain happly | happly := s.applyPlan_cases p <;> rw [happly]
  · rw [State.unspecifiedEnd_mem]
    exact h.scramble _ hp
  · rw [State.specifiedEnd_mem]
    refine (h.writeAll fun c hc => hp c.1 (List.mem_append_left _ ?_)).scramble _ hspoiled
    rw [← Plan.cells_addrs p s.mem]
    exact List.mem_map_of_mem hc

/-- A command whose plan changes only bytes that exist keeps data memory canonical and in the address space. -/
theorem State.runCommand_fits {s : State} {r : Except CmdError Plan} (h : s.mem.Fits)
    (hspoiled : ∀ a ∈ s.breach.destWritten, a < Config.memorySize)
    (hr : ∀ p, r = .ok p → ∀ a ∈ p.mayChange, a < Config.memorySize) : (s.runCommand r).mem.Fits := by
  cases r with
  | error e => exact h
  | ok p =>
    have hp := hr p rfl
    rw [State.runCommand_ok]
    obtain ⟨a, -, hrun⟩ | ⟨a, -, hrun⟩ | ⟨-, -, hrun⟩ := s.runPlan_cases p <;> rw [hrun]
    · exact h
    · exact h.scramble s.draws hp
    · exact State.applyPlan_fits h hspoiled hp

/-! ### What a command's end reports -/

/-- A command reports no error, or sets ERR with its code, ERR_INFO being 0 for every error but BUS_ERROR (10_state.md R39,
60_exceptions.md R254). -/
theorem State.runCommand_errorReport (s : State) (r : Except CmdError Plan) :
    (s.runCommand r).errorReport = s.errorReport ∨
      ∃ e info, (s.runCommand r).errorReport = (true, some e, info) ∧ (e ≠ .busError → info = 0) := by
  cases r with
  | error e => exact .inr ⟨e, 0, rfl, fun _ => rfl⟩
  | ok p =>
    rw [State.runCommand_ok]
    obtain ⟨a, -, hrun⟩ | ⟨a, -, hrun⟩ | ⟨-, -, hrun⟩ := s.runPlan_cases p <;> rw [hrun]
    · exact .inr ⟨.busError, _, rfl, fun hne => absurd rfl hne⟩
    · exact .inr ⟨.busError, _, rfl, fun hne => absurd rfl hne⟩
    · exact .inl (s.applyPlan_errorReport p)

/-- A command leaves the blur report alone or sets VALID (10_state.md R48). -/
theorem State.runCommand_blurReport (s : State) (r : Except CmdError Plan) :
    (s.runCommand r).blurReport = s.blurReport ∨ (s.runCommand r).blurValid = true := by
  cases r with
  | error e => exact .inl rfl
  | ok p =>
    rw [State.runCommand_ok]
    obtain ⟨a, -, hrun⟩ | ⟨a, -, hrun⟩ | ⟨-, -, hrun⟩ := s.runPlan_cases p <;> rw [hrun]
    · exact .inl rfl
    · exact .inl rfl
    · obtain happly | happly := s.applyPlan_cases p <;> rw [happly]
      · cases hresult : p.result with
        | blur => exact .inr (by rw [State.unspecifiedEnd, hresult]; rfl)
        | _ => exact .inl (by rw [State.unspecifiedEnd, hresult]; rfl)
      · obtain ⟨-, hspoil, -⟩ :=
          (s.withMem (s.mem.writeAll (p.cells s.mem))).spoilWritten_registers s.breach.destWritten
        cases hresult : p.result with
        | blur => exact .inr (by rw [State.specifiedEnd, hresult]; rfl)
        | _ => exact .inl (by rw [State.specifiedEnd, hresult]; exact hspoil)

/-! ### The registers the invariant speaks of -/

/-- The registers that every reset clears, and ENGINE (70_reset_and_hazards.md R290). -/
def State.registers (s : State) :
    Operands × Bool × Bool × Bool × Bool × Option CmdError × Word × Bool × Bool × Word × Engine :=
  (s.operands, s.irqEn, s.done, s.err, s.ovr, s.errCode, s.errInfo, s.blurValid, s.isBlurred, s.maxGradient, s.engine)

theorem State.clearRegisters_eq_self_iff {s : State} :
    s.clearRegisters = s ↔ s.registers = State.reset.registers := by
  constructor
  · intro h
    rw [← h]
    rfl
  · intro h
    cases s
    simp only [State.registers, State.reset, Prod.mk.injEq] at h
    obtain ⟨rfl, rfl, rfl, rfl, rfl, rfl, rfl, rfl, rfl, rfl, rfl⟩ := h
    rfl

/-- The status fields that the invariant relates to each other while the reset input is released. -/
def State.statusFields (s : State) : Bool × Bool × Bool × Option CmdError × Word × Bool × Bool :=
  (s.busy, s.done, s.err, s.errCode, s.errInfo, s.blurValid, s.isBlurred)

/-- The registers at their reset values meet the invariant, whatever the memory that fits. -/
theorem State.Inv.of_cleared {t : State} (hmem : t.mem.Fits) (h : t.registers = State.reset.registers) : t.Inv := by
  have hheld := State.clearRegisters_eq_self_iff.2 h
  simp only [State.registers, State.reset, Prod.mk.injEq] at h
  obtain ⟨-, -, -, herr, -, herrCode, -, -, hblurred, -, hidle⟩ := h
  exact {
    memCanonical := hmem.canonical
    memInSpace := hmem.inSpace
    errHasCode := by rw [herr, herrCode]; rfl
    busyNotEnded := by simp [State.busy_of_idle hidle]
    blurredIsValid := by simp [hblurred]
    infoOnlyForBus := by simp [herrCode]
    heldInReset := fun _ => hheld
    breachInSpace := by simp [State.breach, hidle, Breach.none] }

/-- With the reset input released, the invariant speaks of memory, the status fields and the record of breaches alone. -/
theorem State.Inv.of_statusFields {s t : State} (h : s.Inv) (hmem : t.mem.Fits) (hreleased : t.resetAsserted = false)
    (hstatus : t.statusFields = s.statusFields) (hbreach : ∀ a ∈ t.breach.destWritten, a < Config.memorySize) : t.Inv := by
  simp only [State.statusFields, Prod.mk.injEq] at hstatus
  obtain ⟨hbusy, hdone, herr, herrCode, herrInfo, hvalid, hblurred⟩ := hstatus
  exact {
    memCanonical := hmem.canonical
    memInSpace := hmem.inSpace
    errHasCode := by rw [herr, herrCode, h.errHasCode]
    busyNotEnded := by simpa only [hbusy, hdone, herr] using h.busyNotEnded
    blurredIsValid := by simpa only [hvalid, hblurred] using h.blurredIsValid
    infoOnlyForBus := by simpa only [herrCode, herrInfo] using h.infoOnlyForBus
    heldInReset := by simp [hreleased]
    breachInSpace := hbreach }

theorem State.Inv.mem_fits {s : State} (h : s.Inv) : s.mem.Fits := ⟨h.memCanonical, h.memInSpace⟩

/-- What changes neither the registers nor the reset input keeps the invariant, if memory fits. -/
theorem State.Inv.of_registers {s t : State} (h : s.Inv) (hmem : t.mem.Fits)
    (hreset : t.resetAsserted = s.resetAsserted) (hregisters : t.registers = s.registers) : t.Inv := by
  cases hs : s.resetAsserted with
  | true => exact .of_cleared hmem (hregisters.trans (State.clearRegisters_eq_self_iff.1 (h.heldInReset hs)))
  | false =>
    simp only [State.registers, Prod.mk.injEq] at hregisters
    obtain ⟨-, -, hdone, herr, -, herrCode, herrInfo, hvalid, hblurred, -, hengine⟩ := hregisters
    refine h.of_statusFields hmem (hreset.trans hs) ?_ ?_
    · simp only [State.statusFields, State.busy, hdone, herr, herrCode, herrInfo, hvalid, hblurred, hengine]
    · have hbreach : t.breach = s.breach := by simp only [State.breach, hengine]
      rw [hbreach]
      exact h.breachInSpace

/-- No command is in progress while the reset input is asserted (70_reset_and_hazards.md R290; log 16). -/
theorem State.Inv.released_of_busy {s : State} (h : s.Inv) (hbusy : s.busy = true) : s.resetAsserted = false := by
  cases hs : s.resetAsserted with
  | false => rfl
  | true =>
    rw [← h.heldInReset hs] at hbusy
    cases hbusy

/-! ### The engine's turn -/

/-- A command in progress that ends, by its plan or by an error, leaves the invariant. -/
theorem State.Inv.runCommand {s : State} {r : Except CmdError Plan} (h : s.Inv) (hbusy : s.busy = true)
    (hr : ∀ p, r = .ok p → ∀ a ∈ p.mayChange, a < Config.memorySize) : (s.runCommand r).Inv := by
  have hmem := State.runCommand_fits h.mem_fits h.breachInSpace hr
  have hcontrol := s.runCommand_control r
  simp only [State.control, Prod.mk.injEq] at hcontrol
  obtain ⟨-, -, hreset, -⟩ := hcontrol
  obtain ⟨hidle, -⟩ := s.runCommand_ended r
  obtain ⟨herrHasCode, hinfoOnlyForBus⟩ : (s.runCommand r).err = (s.runCommand r).errCode.isSome ∧
      ∀ e, (s.runCommand r).errCode = some e → e ≠ .busError → (s.runCommand r).errInfo = 0 := by
    obtain hreport | ⟨e, info, hreport, hinfo⟩ := s.runCommand_errorReport r
    · simp only [State.errorReport, Prod.mk.injEq] at hreport
      obtain ⟨herr, hcode, hinfo⟩ := hreport
      rw [herr, hcode, hinfo]
      exact ⟨h.errHasCode, h.infoOnlyForBus⟩
    · simp only [State.errorReport, Prod.mk.injEq] at hreport
      obtain ⟨herr, hcode, hinfo'⟩ := hreport
      rw [herr, hcode, hinfo']
      exact ⟨rfl, fun e' he' hne => hinfo (Option.some.inj he' ▸ hne)⟩
  have hblurredIsValid : (s.runCommand r).isBlurred = true → (s.runCommand r).blurValid = true := by
    obtain hreport | hvalid := s.runCommand_blurReport r
    · simp only [State.blurReport, Prod.mk.injEq] at hreport
      obtain ⟨hvalid, hblurred, -⟩ := hreport
      rw [hvalid, hblurred]
      exact h.blurredIsValid
    · exact fun _ => hvalid
  exact {
    memCanonical := hmem.canonical
    memInSpace := hmem.inSpace
    errHasCode := herrHasCode
    busyNotEnded := by simp [State.busy_of_idle hidle]
    blurredIsValid := hblurredIsValid
    infoOnlyForBus := hinfoOnlyForBus
    heldInReset := by simp [hreset, h.released_of_busy hbusy]
    breachInSpace := by simp [State.breach, hidle, Breach.none] }

theorem State.Inv.engineTurn {s t : State} (h : s.Inv) (ht : engineTurn s = .next t) : t.Inv := by
  obtain ⟨-, rfl⟩ | ⟨l, b, hengine, hcommand⟩ := engineTurn_cases ht
  · exact h
  · have hbusy : s.busy = true := State.busy_iff.2 (by simp [hengine])
    obtain ⟨i, -, rfl⟩ | ⟨e, -, rfl⟩ := hcommand
    · exact h.runCommand hbusy fun p hp => commandPlan_mayChange_lt hp
    · exact h.runCommand (r := .error .invalidCommand) hbusy (by simp)

/-! ### Register writes -/

theorem State.Inv.softReset {s : State} (h : s.Inv) : s.softReset.Inv :=
  .of_cleared (by simpa [State.softReset] using h.mem_fits.scramble s.draws s.mayChange_lt) rfl

/-- An acknowledgement clears ERR together with its code, and DONE (10_state.md R32, R37). -/
theorem State.Inv.acknowledge {s : State} (h : s.Inv) (hreleased : s.resetAsserted = false) (v : Word) :
    (s.acknowledge v).Inv where
  memCanonical := h.memCanonical
  memInSpace := h.memInSpace
  errHasCode := by cases hv : bit v 2 <;> simp [hv, h.errHasCode]
  busyNotEnded hbusy := by
    obtain ⟨hdone, herr⟩ := h.busyNotEnded hbusy
    simp [hdone, herr]
  blurredIsValid := h.blurredIsValid
  infoOnlyForBus e he := h.infoOnlyForBus e (by cases hv : bit v 2 <;> simp_all)
  heldInReset := by simp [hreleased]
  breachInSpace := h.breachInSpace

/-- Acceptance clears the end flags and the pending error (10_state.md R45). -/
theorem State.Inv.accept {s : State} (h : s.Inv) (hreleased : s.resetAsserted = false) : s.accept.Inv where
  memCanonical := h.memCanonical
  memInSpace := h.memInSpace
  errHasCode := rfl
  busyNotEnded _ := ⟨rfl, rfl⟩
  blurredIsValid := by
    simp only [State.accept_isBlurred, State.accept_blurValid]
    split
    case isTrue => exact fun hfalse => hfalse
    case isFalse => exact h.blurredIsValid
  infoOnlyForBus := by simp
  heldInReset := by simp [hreleased]
  breachInSpace := by simp [State.breach, Breach.none]

theorem State.Inv.writeCtrl {s : State} (h : s.Inv) (hreleased : s.resetAsserted = false) (v : Word) :
    (s.writeCtrl v).Inv := by
  have hirqEn : ({ s with irqEn := bit v 2 } : State).Inv := h.of_statusFields h.mem_fits hreleased rfl h.breachInSpace
  cases h1 : bit v 1 with
  | true =>
    rw [s.writeCtrl_softReset h1]
    exact h.softReset
  | false =>
    cases h0 : bit v 0 with
    | false =>
      rw [s.writeCtrl_noStart h1 h0]
      exact hirqEn
    | true =>
      by_cases hengine : s.engine = .idle
      · rw [s.writeCtrl_start_idle h1 h0 hengine]
        exact hirqEn.accept hreleased
      · rw [s.writeCtrl_start_busy h1 h0 (State.busy_iff.2 hengine)]
        exact hirqEn.of_statusFields h.mem_fits hreleased rfl h.breachInSpace

theorem State.Inv.writeOperand {s : State} (h : s.Inv) (hreleased : s.resetAsserted = false) (r : Reg) (v : Word) :
    (s.writeOperand r v).Inv := by
  by_cases hengine : s.engine = .idle
  · rw [s.writeOperand_idle r v hengine]
    exact h.of_statusFields h.mem_fits hreleased rfl h.breachInSpace
  · rw [s.writeOperand_busy r v (State.busy_iff.2 hengine)]
    exact h.of_statusFields h.mem_fits hreleased rfl h.breachInSpace

theorem State.Inv.writeReg {s : State} (h : s.Inv) (hreleased : s.resetAsserted = false) (r : Reg) (v : Word) :
    (s.writeReg r v).Inv := by
  obtain ⟨-, hw⟩ | ⟨-, hw⟩ | ⟨-, hw⟩ | hw := s.writeReg_cases r v <;> rw [hw]
  · exact h.writeCtrl hreleased v
  · exact h.acknowledge hreleased v
  · exact h.writeOperand hreleased r v
  · exact h

/-! ### The host's accesses to data memory -/

theorem State.Inv.hostRead {s : State} (h : s.Inv) (a : Nat) : (s.hostRead a).Inv := by
  unfold State.hostRead
  split <;> exact h.of_registers h.mem_fits rfl rfl

/-- A host write keeps memory in the address space, and what it records exists (log 11). -/
theorem State.Inv.hostWrite {s : State} (h : s.Inv) {a : Nat} (v : Byte) (ha : a < Config.memorySize) :
    (s.hostWrite a v).Inv := by
  have hmem := State.hostWrite_fits v h.mem_fits ha
  rw [State.hostWrite_eq] at hmem ⊢
  cases hengine : s.engine with
  | idle =>
    rw [State.withBreach_of_idle _ hengine] at hmem ⊢
    exact h.of_registers hmem rfl rfl
  | busy l b =>
    have hreleased := h.released_of_busy (State.busy_iff.2 (by simp [hengine]))
    have hrecord : ∀ c ∈ (s.breachAfterWrite a).destWritten, c < Config.memorySize := by
      intro c hc
      unfold State.breachAfterWrite at hc
      dsimp only at hc
      split at hc
      · obtain rfl | hc := List.mem_cons.1 hc
        · exact ha
        · exact h.breachInSpace c hc
      · exact h.breachInSpace c hc
    simp only [State.withBreach, hengine] at hmem ⊢
    refine h.of_statusFields hmem hreleased ?_ hrecord
    simp only [State.statusFields, State.busy, hengine]

/-! ### A step -/

theorem State.Inv.hostEvent {s t : State} {i : Input} (h : s.Inv) (ht : s.hostEvent i = .next t) : t.Inv := by
  cases i with
  | regRead addr bytes =>
    obtain ⟨-, o, -, rfl⟩ := State.onPort_next ht
    exact h.of_registers h.mem_fits rfl rfl
  | regWrite addr bytes data =>
    obtain ⟨hreleased, o, -, rfl⟩ := State.onPort_next ht
    cases hreg : Reg.ofOffset o with
    | none =>
      rw [State.writeOffset_reserved s data hreg]
      exact h
    | some r =>
      obtain rfl := Reg.eq_offset_of_ofOffset hreg
      rw [State.writeOffset_offset]
      exact h.writeReg hreleased r data
  | poll addr mask value =>
    obtain ⟨-, o, -, rfl⟩ := State.onPort_next ht
    exact h
  | memRead addr =>
    simp only [State.hostEvent] at ht
    split at ht <;> cases ht
    exact h.hostRead addr
  | memWrite addr data =>
    simp only [State.hostEvent] at ht
    split at ht
    case isTrue ha =>
      cases ht
      exact h.hostWrite data ha
    case isFalse => cases ht
  | resetAssert =>
    cases ht
    exact .of_cleared h.softReset.mem_fits rfl
  | resetRelease =>
    cases ht
    exact h.of_statusFields h.mem_fits rfl rfl h.breachInSpace
  | engineTurn =>
    cases ht
    exact h

theorem State.Inv.withInputs {s : State} (h : s.Inv) (rest : List Input) : (s.withInputs rest).Inv :=
  h.of_registers h.mem_fits rfl rfl

/-- Settles O57: a step is the engine's turn or an event of the host, and each keeps the invariant. -/
theorem stepKeepsInvariant : Obligations.StepKeepsInvariant := by
  intro s t h ht
  obtain hengine | ⟨rest, -, hengine⟩ | ⟨i, rest, -, hhost⟩ := step_cases ht
  · exact h.engineTurn hengine
  · exact (h.withInputs rest).engineTurn hengine
  · exact (h.withInputs rest).hostEvent hhost

end Sys2Proof.Machine
end

section
/-! The command word (30_encoding.md R90 to R98): its value from its fields, which part of the decoder reads a word, when each
part accepts one, and the obligations on decoding and encoding. -/

namespace Sys2Proof

/-! ### A word from its fields -/

theorem flag_bit (w : Word) (i : Nat) : flag (bit w i) = w.toNat / 2 ^ i % 2 := by
  by_cases h : w.toNat / 2 ^ i % 2 = 1
  · simp [bit, flag, h]
  · simpa [bit, flag, h] using (Nat.mod_two_ne_one.1 h).symm

/-- The fields of a command that reads OP alone (30_encoding.md R90). -/
theorem toNat_eq_plainFields (w : Word) : w.toNat = bits w 3 0 + bits w 31 4 * 2 ^ 4 := by
  unfold bits
  omega

/-- The fields of RESAMPLE (30_encoding.md R92). -/
theorem toNat_eq_resampleFields (w : Word) :
    w.toNat = bits w 3 0 + bits w 5 4 * 2 ^ 4 + bits w 31 6 * 2 ^ 6 := by
  unfold bits
  omega

/-- The fields of CONVOLVE, the unused ones among them (30_encoding.md R93, R94). -/
theorem toNat_eq_convolveFields (w : Word) :
    w.toNat = bits w 3 0 + bits w 7 4 * 2 ^ 4 + flag (bit w 8) * 2 ^ 8 + flag (bit w 9) * 2 ^ 9 +
      flag (bit w 10) * 2 ^ 10 + bits w 15 11 * 2 ^ 11 + bits w 22 16 * 2 ^ 16 + bits w 31 23 * 2 ^ 23 := by
  simp only [flag_bit]
  unfold bits
  omega

/-! ### Which part of the decoder reads a word -/

/-- OP selects the reading of the other bits (30_encoding.md R91, R97): a command that reads OP alone, whose word is then OP
itself; RESAMPLE; CONVOLVE; or none. -/
theorem decode_cases (w : Word) :
    (∃ i, decode w = decodePlain w i ∧ i.wellFormed = true ∧ encode i = BitVec.ofNat 32 (bits w 3 0) ∧
      (bits w 3 0 ≤ 4 ∨ bits w 3 0 = 7)) ∨
    (bits w 3 0 = 5 ∧ decode w = decodeResample w) ∨
    (bits w 3 0 = 6 ∧ decode w = decodeConvolve w) ∨
    (8 ≤ bits w 3 0 ∧ decode w = .error .reservedOp) := by
  unfold decode
  split
  case h_6 hop => exact .inr (.inl ⟨hop, rfl⟩)
  case h_7 hop => exact .inr (.inr (.inl ⟨hop, rfl⟩))
  case h_9 =>
    have hop : 8 ≤ bits w 3 0 := by
      simp only [imp_false] at *
      omega
    exact .inr (.inr (.inr ⟨hop, rfl⟩))
  all_goals
    rename_i hop
    exact .inl ⟨_, rfl, rfl, by rw [hop]; rfl, by omega⟩

theorem decode_convolve {w : Word} (h : bits w 3 0 = 6) : decode w = decodeConvolve w := by
  simp only [decode, h]

/-! ### When each part accepts a word -/

section
variable {c : Prop} [Decidable c] {i j : Instr} {e : IllegalWord}

/-- A check of a word's unused fields lets its command through exactly where they are 0 (30_encoding.md R96). -/
theorem checked_eq_ok : (if c then Except.ok i else .error e) = .ok j ↔ c ∧ i = j := by
  by_cases h : c <;> simp [h]

theorem checked_error : (∃ e', (if c then Except.ok i else .error e) = .error e') ↔ ¬ c := by
  by_cases h : c <;> simp [h]

end

theorem decodePlain_eq_ok {w : Word} {i j : Instr} : decodePlain w i = .ok j ↔ bits w 31 4 = 0 ∧ i = j :=
  checked_eq_ok

theorem decodePlain_error {w : Word} {i : Instr} : (∃ e, decodePlain w i = .error e) ↔ bits w 31 4 ≠ 0 :=
  checked_error

/-- An accepted RESAMPLE word is OP and ALG, all else 0 (30_encoding.md R92, R96). -/
theorem decodeResample_ok {w : Word} {i : Instr} (h : decodeResample w = .ok i) :
    bits w 31 6 = 0 ∧ i.wellFormed = true ∧ encode i = BitVec.ofNat 32 (5 + bits w 5 4 * 2 ^ 4) := by
  unfold decodeResample at h
  split at h
  case isFalse => cases h
  case isTrue hunused =>
    split at h
    case h_4 => cases h
    all_goals
      rename_i halg
      cases h
      exact ⟨hunused, rfl, by rw [halg]; rfl⟩

/-- A RESAMPLE word is refused for its unused bits or for ALG = 3 (30_encoding.md R98). -/
theorem decodeResample_error {w : Word} :
    (∃ e, decodeResample w = .error e) ↔ bits w 5 4 = 3 ∨ bits w 31 6 ≠ 0 := by
  have halg : bits w 5 4 < 4 := Nat.mod_lt _ (by decide)
  unfold decodeResample
  split
  case isFalse hunused => simp [hunused]
  case isTrue hunused =>
    split
    case h_4 =>
      have h3 : bits w 5 4 = 3 := by
        simp only [imp_false] at *
        omega
      simp [h3]
    all_goals simp [*]

/-- An accepted CONVOLVE word has its unused fields 0, and the command holds the others (30_encoding.md R93, R94, R96). -/
theorem decodeConvolve_eq_ok {w : Word} {i : Instr} :
    decodeConvolve w = .ok i ↔
      (bits w 7 4 = 0 ∧ bits w 15 11 = 0 ∧ bits w 31 23 = 0) ∧
        .convolve (bits w 22 16) (bit w 8) (bit w 9) (bit w 10) = i :=
  checked_eq_ok

theorem decodeConvolve_error {w : Word} :
    (∃ e, decodeConvolve w = .error e) ↔ bits w 7 4 ≠ 0 ∨ bits w 15 11 ≠ 0 ∨ bits w 31 23 ≠ 0 := by
  rw [decodeConvolve, checked_error]
  omega

/-! ### The word of CONVOLVE -/

theorem toNat_encode_convolve {k : Nat} (d p a : Bool) (hk : k < 2 ^ 7) :
    (encode (.convolve k d p a)).toNat = 6 + flag d * 2 ^ 8 + flag p * 2 ^ 9 + flag a * 2 ^ 10 + k * 2 ^ 16 := by
  have hd := Machine.flag_le d
  have hp := Machine.flag_le p
  have ha := Machine.flag_le a
  rw [encode, BitVec.toNat_ofNat, Nat.mod_eq_of_lt]
  omega

/-- Each field of CONVOLVE stands in its own bits, and the unused ones are 0 (30_encoding.md R93, R94). -/
theorem bits_encode_convolve {k : Nat} (d p a : Bool) (hk : k < 2 ^ 7) :
    bits (encode (.convolve k d p a)) 3 0 = 6 ∧ bits (encode (.convolve k d p a)) 22 16 = k ∧
      bits (encode (.convolve k d p a)) 7 4 = 0 ∧ bits (encode (.convolve k d p a)) 15 11 = 0 ∧
      bits (encode (.convolve k d p a)) 31 23 = 0 := by
  have hd := Machine.flag_le d
  have hp := Machine.flag_le p
  have ha := Machine.flag_le a
  have hword := toNat_encode_convolve d p a hk
  unfold bits
  omega

theorem bit_encode_convolve {k : Nat} (d p a : Bool) (hk : k < 2 ^ 7) :
    bit (encode (.convolve k d p a)) 8 = d ∧ bit (encode (.convolve k d p a)) 9 = p ∧
      bit (encode (.convolve k d p a)) 10 = a := by
  have hd := Machine.flag_le d
  have hp := Machine.flag_le p
  have ha := Machine.flag_le a
  have hword := toNat_encode_convolve d p a hk
  refine ⟨Machine.bit_eq_of_flag ?_, Machine.bit_eq_of_flag ?_, Machine.bit_eq_of_flag ?_⟩ <;> omega

theorem decode_encode_convolve {k : Nat} (d p a : Bool) (hk : k < 2 ^ 7) :
    decode (encode (.convolve k d p a)) = .ok (.convolve k d p a) := by
  obtain ⟨hop, hksize, hunused⟩ := bits_encode_convolve d p a hk
  obtain ⟨hdynDiv, hprocAlpha, hdivAuto⟩ := bit_encode_convolve d p a hk
  rw [decode_convolve hop, decodeConvolve_eq_ok]
  exact ⟨hunused, by rw [hksize, hdynDiv, hprocAlpha, hdivAuto]⟩

/-! ### The obligations -/

/-- Settles O1: the words of all commands but CONVOLVE are constants; CONVOLVE's fields are read back one by one. -/
theorem decodeOfEncode : Obligations.DecodeOfEncode := by
  intro i h
  cases i with
  | convolve k d p a => exact decode_encode_convolve d p a (by simpa [Instr.wellFormed] using h)
  | _ => rfl

/-- Settles O2: in each part of the decoder the fields that the command does not hold are 0, so the word is the rest. -/
theorem encodeOfDecode : Obligations.EncodeOfDecode := by
  intro w i h
  obtain ⟨j, hj, hwf, henc, -⟩ | ⟨hop, hw⟩ | ⟨hop, hw⟩ | ⟨-, hw⟩ := decode_cases w
  · obtain ⟨hunused, rfl⟩ := decodePlain_eq_ok.1 (hj ▸ h)
    have hword : bits w 3 0 = w.toNat := by simp [toNat_eq_plainFields w, hunused]
    exact ⟨hwf, by rw [henc, hword, BitVec.ofNat_toNat, BitVec.setWidth_eq]⟩
  · obtain ⟨hunused, hwf, henc⟩ := decodeResample_ok (hw ▸ h)
    have hword : 5 + bits w 5 4 * 2 ^ 4 = w.toNat := by simp [toNat_eq_resampleFields w, hop, hunused]
    exact ⟨hwf, by rw [henc, hword, BitVec.ofNat_toNat, BitVec.setWidth_eq]⟩
  · obtain ⟨⟨h74, h1511, h3123⟩, rfl⟩ := decodeConvolve_eq_ok.1 (hw ▸ h)
    have hksize : bits w 22 16 < 2 ^ 7 := Nat.mod_lt _ (by decide)
    refine ⟨by simpa [Instr.wellFormed] using hksize, BitVec.eq_of_toNat_eq ?_⟩
    rw [toNat_encode_convolve _ _ _ hksize, toNat_eq_convolveFields w]
    omega
  · cases hw ▸ h

/-- R98's list: a word is illegal for its OP, its ALG or a bit that its OP does not read (30_encoding.md R96). -/
theorem decode_error_iff (w : Word) :
    (∃ e, decode w = .error e) ↔
      (8 ≤ bits w 3 0 ∨ (bits w 3 0 = 5 ∧ bits w 5 4 = 3) ∨ (bits w 3 0 ≤ 4 ∧ bits w 31 4 ≠ 0) ∨
        (bits w 3 0 = 7 ∧ bits w 31 4 ≠ 0) ∨ (bits w 3 0 = 5 ∧ bits w 31 6 ≠ 0) ∨
        (bits w 3 0 = 6 ∧ (bits w 7 4 ≠ 0 ∨ bits w 15 11 ≠ 0 ∨ bits w 31 23 ≠ 0))) := by
  obtain ⟨i, hw, -, -, hop⟩ | ⟨hop, hw⟩ | ⟨hop, hw⟩ | ⟨hop, hw⟩ := decode_cases w <;> rw [hw]
  · rw [decodePlain_error]
    omega
  · rw [decodeResample_error]
    omega
  · rw [decodeConvolve_error]
    omega
  · simp [hop]

/-- Settles O4: each word is the word of its command. -/
theorem tableWordsDecode : Obligations.TableWordsDecode :=
  ⟨decodeOfEncode .nop rfl, decodeOfEncode .setPixel rfl, decodeOfEncode .copy rfl, decodeOfEncode .resampleBilinear rfl,
    decodeOfEncode (.convolve 3 false false true) rfl, decodeOfEncode (.convolve 99 true true true) rfl,
    decodeOfEncode .detectBlur rfl⟩

end Sys2Proof
end

section
/-! The engine's turn with a latched word, whose turn a step is, and polls (30_encoding.md R97, R98, R103; log 5). -/

namespace Sys2Proof.Machine

/-! ### The engine's turn -/

theorem engineTurn_idle {s : State} (h : s.engine = .idle) : engineTurn s = .next s := by
  simp [engineTurn, h]

theorem engineTurn_command {s : State} {l : Operands} {b : Breach} {i : Instr} (h : s.engine = .busy l b)
    (hi : decode l.cmd = .ok i) : engineTurn s = exec i s := by
  simp [engineTurn, h, hi]

/-- An illegal word ends with INVALID_COMMAND, ERR_INFO 0 and memory as it was (30_encoding.md R98). -/
theorem engineTurn_illegal {s : State} {l : Operands} {b : Breach} {e : IllegalWord} (h : s.engine = .busy l b)
    (he : decode l.cmd = .error e) : engineTurn s = .next (s.endedWith .invalidCommand) := by
  simp [engineTurn, h, he, State.raise, State.endedWith]

/-! ### Whose turn a step is -/

theorem step_noInputs {s : State} (h : s.inputs = []) : step s = engineTurn s := by
  simp [step, State.turn, h]

theorem step_engineTurn {s : State} {rest : List Input} (h : s.inputs = .engineTurn :: rest) :
    step s = engineTurn (s.withInputs rest) := by
  simp [step, State.turn, h]

/-- A poll of a register waits until the register's value under the mask is the one awaited (30_encoding.md R103). -/
theorem State.pollWaits_register (s : State) (r : Reg) (mask value : Word) (h : s.resetAsserted = false) :
    s.pollWaits (s.platform.regBase + r.offset) mask value = !decide (s.readReg r &&& mask = value) := by
  simp [State.pollWaits, h, State.portOffset_register, State.readOffset_offset]

section
variable {s : State} {r : Reg} {mask value : Word} {rest : List Input}

theorem step_poll_waits (hreset : s.resetAsserted = false)
    (hin : s.inputs = .poll (s.platform.regBase + r.offset) mask value :: rest) (h : s.readReg r &&& mask ≠ value) :
    step s = engineTurn s := by
  have hwaits : s.pollWaits (s.platform.regBase + r.offset) mask value = true := by
    simp [s.pollWaits_register r mask value hreset, h]
  simp [step, State.turn, hin, hwaits]

theorem step_poll_done (hreset : s.resetAsserted = false)
    (hin : s.inputs = .poll (s.platform.regBase + r.offset) mask value :: rest) (h : s.readReg r &&& mask = value) :
    step s = .next (s.withInputs rest) := by
  have hdone : s.pollWaits (s.platform.regBase + r.offset) mask value = false := by
    simp [s.pollWaits_register r mask value hreset, h]
  have hhost : step s = (s.withInputs rest).hostEvent (.poll (s.platform.regBase + r.offset) mask value) := by
    simp [step, State.turn, hin, hdone]
  rw [hhost]
  exact State.onPort_defined (s.withInputs rest) _ _ r.offset (fun _ => s.withInputs rest) hreset
    ((s.withInputs rest).portOffset_register r)

end

/-! ### The obligations -/

/-- Settles O3: R98's list of words, and the engine's turn with one of them. -/
theorem illegalWordsRaiseInvalidCommand : Obligations.IllegalWordsRaiseInvalidCommand := by
  intro w
  refine ⟨decode_error_iff w, ?_⟩
  rintro s l b e hbusy rfl he
  have hturn := engineTurn_illegal hbusy he
  exact ⟨hturn, fun hin => (step_noInputs hin).trans hturn⟩

/-- Settles O5: the engine's turn, IDLE and BUSY, and the three steps that are that turn. -/
theorem stepRunsDecodedCommand : Obligations.StepRunsDecodedCommand := by
  intro s
  exact ⟨fun l b i => engineTurn_command, engineTurn_idle, step_noInputs, fun rest => step_engineTurn,
    fun r mask value rest => step_poll_waits⟩

/-- Settles O52: the poll's condition holds or not. -/
theorem pollRepeatsUntilMatch : Obligations.PollRepeatsUntilMatch := by
  intro s r mask value rest hreset hin
  split
  case isTrue h => exact step_poll_done hreset hin h
  case isFalse h => exact step_poll_waits hreset hin h

end Sys2Proof.Machine
end

section
/-! Operand checks in their order (20_memory.md R69, 60_exceptions.md R262): a check of the model as the list of conditions
it raises on, and how such lists join when checks follow one another. -/

namespace Sys2Proof.Machine

/-! ### A check and its conditions -/

/-- The check raises the error of the first condition that holds, and passes where none does (60_exceptions.md R262). -/
def ChecksInOrder {α : Type} (x : Except CmdError α) (cs : List (Bool × CmdError)) : Prop :=
  match firstError cs with
  | some e => x = .error e
  | none => ∃ a, x = .ok a

section
variable {α β : Type} {x : Except CmdError α} {cs ds : List (Bool × CmdError)}

theorem ChecksInOrder.eq_error {e : CmdError} (h : ChecksInOrder x cs) (he : firstError cs = some e) : x = .error e := by
  simpa [ChecksInOrder, he] using h

/-- The first error of two lists in a row is the first list's, or the second list's where the first has none. -/
theorem firstError_append (cs ds : List (Bool × CmdError)) :
    firstError (cs ++ ds) = (firstError cs).or (firstError ds) := by
  induction cs with
  | nil => rfl
  | cons c rest ih =>
    obtain ⟨c, e⟩ := c
    cases c with
    | false => exact ih
    | true => rfl

theorem ChecksInOrder.ok (a : α) : ChecksInOrder (.ok a) [] := ⟨a, rfl⟩

/-- The conditions of a check stand before those of what follows it. -/
theorem ChecksInOrder.bind {f : α → Except CmdError β} (hx : ChecksInOrder x cs)
    (hf : ∀ a, x = .ok a → ChecksInOrder (f a) ds) : ChecksInOrder (x >>= f) (cs ++ ds) := by
  unfold ChecksInOrder at hx ⊢
  rw [firstError_append]
  cases hcs : firstError cs with
  | some e =>
    rw [hcs] at hx
    subst hx
    rfl
  | none =>
    rw [hcs] at hx
    obtain ⟨a, rfl⟩ := hx
    exact hf a rfl

/-- What follows the last check and raises nothing adds no condition. -/
theorem ChecksInOrder.bind_ok {f : α → Except CmdError β} {g : α → β} (hx : ChecksInOrder x cs)
    (hf : ∀ a, f a = .ok (g a)) : ChecksInOrder (x >>= f) cs := by
  rw [← List.append_nil cs]
  exact hx.bind fun a _ => hf a ▸ .ok (g a)

end

theorem raiseIf_checks (c : Bool) (e : CmdError) : ChecksInOrder (raiseIf c e) [(c, e)] := by
  cases c with
  | false => exact ⟨(), rfl⟩
  | true => rfl

/-! ### The checks of descriptors -/

/-- Codes 6 and 7 are the reserved ones (20_memory.md R63). -/
theorem Descriptor.badFormat_iff (d : Descriptor) : d.badFormat = true ↔ Format.ofCode d.fmt = none := by
  have hall : ∀ c : BitVec 3, decide (5 < c.toNat) = true ↔ Format.ofCode c = none := by decide
  exact hall d.fmt

theorem checkFmt_checks (d : Descriptor) : ChecksInOrder (checkFmt d) [(d.badFormat, .unsupportedFormat)] := by
  cases hfmt : Format.ofCode d.fmt with
  | none =>
    have hbad := d.badFormat_iff.2 hfmt
    simp [ChecksInOrder, firstError, hbad, checkFmt_eq_error, hfmt]
  | some f =>
    have hgood : d.badFormat = false := by
      rw [Bool.eq_false_iff, ne_eq, Descriptor.badFormat_iff, hfmt]
      simp
    simp [ChecksInOrder, firstError, hgood, checkFmt_eq_ok, hfmt]

/-- A shape check passes exactly where the conditions of R69 say so, and answers the descriptor's numbers. -/
theorem checkShape_eq_ite {d : Descriptor} {f : Format} (hfmt : Format.ofCode d.fmt = some f) :
    checkShape d f =
      if d.badShape = true then .error .sizeMismatch
      else .ok { base := d.base.toNat, width := d.width, height := d.height, stride := d.stride.toNat, fmt := f } := by
  have hbpp : bppOfCode d.fmt = f.bpp := by rw [bppOfCode, hfmt]
  simp only [checkShape, Descriptor.badShape, hbpp, Bool.or_eq_true, decide_eq_true_eq, ite_or, Descriptor.width,
    Descriptor.height, Buffer.limit, Config.memorySize]
  exact ite_or _ _ _ _

theorem checkShape_checks {d : Descriptor} {f : Format} (hfmt : checkFmt d = .ok f) :
    ChecksInOrder (checkShape d f) [(d.badShape, .sizeMismatch)] := by
  rw [checkShape_eq_ite ((checkFmt_eq_ok d f).1 hfmt)]
  cases hbad : d.badShape <;> simp [ChecksInOrder, firstError]

/-- The checks of one descriptor and the coordinates, with the registers' own numbers (40_pixel_lanes.md R123, R124). -/
theorem checkPixel_checks (l : Operands) (d : Descriptor) :
    ChecksInOrder (checkPixel l d)
      [ (d.badFormat, .unsupportedFormat), (d.badShape, .sizeMismatch),
        (decide (bits d.size 15 0 ≤ bits l.pixXY 15 0) || decide (bits d.size 31 16 ≤ bits l.pixXY 31 16),
          .outOfRange) ] := by
  refine (checkFmt_checks d).bind fun f hfmt => (checkShape_checks hfmt).bind fun b hshape => ?_
  obtain ⟨-, -, hwidth, hheight, -⟩ := Descriptor.names_of_checks hfmt hshape
  rw [hwidth, hheight]
  exact (raiseIf_checks _ _).bind_ok fun _ => rfl

/-- The checks of both descriptors, with those that stand between formats and shapes (60_exceptions.md R262). -/
theorem checkBoth_checks {l : Operands} {between : Format → Except CmdError Unit} {cs : List (Bool × CmdError)}
    (hbetween : ∀ f, checkFmt l.src = .ok f → ChecksInOrder (between f) cs) :
    ChecksInOrder (checkBoth l between)
      ([(l.src.badFormat, .unsupportedFormat), (l.dst.badFormat, .unsupportedFormat)] ++ cs ++
        [(l.src.badShape, .sizeMismatch), (l.dst.badShape, .sizeMismatch)]) := by
  rw [List.append_assoc]
  exact (checkFmt_checks l.src).bind fun fs hfs => (checkFmt_checks l.dst).bind fun fd hfd =>
    (hbetween fs hfs).bind fun _ _ => (checkShape_checks hfs).bind fun _ _ => (checkShape_checks hfd).bind_ok fun _ => rfl

/-! ### Equal sizes and formats -/

/-- A 32-bit register is its two halves. -/
theorem eq_iff_halves (v w : Word) : v = w ↔ bits v 15 0 = bits w 15 0 ∧ bits v 31 16 = bits w 31 16 := by
  refine ⟨fun h => h ▸ ⟨rfl, rfl⟩, fun ⟨hlow, hhigh⟩ => BitVec.eq_of_toNat_eq ?_⟩
  unfold bits at hlow hhigh
  omega

/-- Different codes name different formats (20_memory.md R63). -/
theorem Format.ofCode_inj {c c' : BitVec 3} {f : Format} (h : Format.ofCode c = some f) (h' : Format.ofCode c' = some f) :
    c = c' := by
  have hall : ∀ c c' : BitVec 3, Format.ofCode c = Format.ofCode c' → Format.ofCode c ≠ none → c = c' := by decide
  exact hall c c' (h.trans h'.symm) (by simp [h])

/-- Two named buffers have one width, height and format exactly where the SIZE and FMT registers are equal
(10_state.md R40, R41). -/
theorem Descriptor.names.not_sameShape {d d' : Descriptor} {a b : Buffer} (ha : d.names a) (hb : d'.names b) :
    (!a.sameShape b) = (decide (d.size ≠ d'.size) || decide (d.fmt ≠ d'.fmt)) := by
  obtain ⟨hafmt, -, haw, hah, -⟩ := ha
  obtain ⟨hbfmt, -, hbw, hbh, -⟩ := hb
  have hfmt : a.fmt = b.fmt ↔ d.fmt = d'.fmt :=
    ⟨fun h => Format.ofCode_inj hafmt (h ▸ hbfmt), fun h => Option.some.inj (hafmt.symm.trans (h ▸ hbfmt))⟩
  have hshape : a.sameShape b = true ↔ d.size = d'.size ∧ d.fmt = d'.fmt := by
    rw [Buffer.sameShape_iff, haw, hah, hbw, hbh, hfmt, eq_iff_halves d.size, and_assoc]
  rw [Bool.eq_iff_iff, Bool.not_eq_true', Bool.eq_false_iff, ne_eq, hshape]
  simp [imp_iff_not_or]

/-! ### The checks of the commands -/

/-- A command whose checks raise ends with that error and accesses no memory (60_exceptions.md R255). -/
theorem exec_of_checks {i : Instr} {s : State} {cs : List (Bool × CmdError)} {e : CmdError}
    (h : ChecksInOrder (commandPlan i s.latched) cs) (he : firstError cs = some e) :
    exec i s = .next (s.endedWith e) := by
  rw [exec_eq_runCommand, h.eq_error he, State.runCommand_error]
  rfl

theorem clearPlan_checks (l : Operands) :
    ChecksInOrder (clearPlan l) [(l.dst.badFormat, .unsupportedFormat), (l.dst.badShape, .sizeMismatch)] :=
  (checkFmt_checks l.dst).bind fun _ hfmt => (checkShape_checks hfmt).bind_ok fun _ => rfl

/-- The checks of a command that works on two buffers of one size and format (40_pixel_lanes.md R126, 43_edge_detect.md
R231), whatever plan follows them. -/
theorem sameShape_checks {α : Type} (l : Operands) {f : Buffer × Buffer → Except CmdError α} {g : Buffer × Buffer → α}
    (hf : ∀ p, f p = raiseIf (!p.1.sameShape p.2) .sizeMismatch >>= fun _ => .ok (g p)) :
    ChecksInOrder (checkBoth l (fun _ => .ok ()) >>= f)
      [ (l.src.badFormat, .unsupportedFormat), (l.dst.badFormat, .unsupportedFormat),
        (l.src.badShape, .sizeMismatch), (l.dst.badShape, .sizeMismatch),
        (decide (l.src.size ≠ l.dst.size) || decide (l.src.fmt ≠ l.dst.fmt), .sizeMismatch) ] := by
  refine (checkBoth_checks fun _ _ => .ok ()).bind fun p hboth => ?_
  obtain ⟨hsrc, hdst, -⟩ := checkBoth_eq_ok hboth
  rw [hf, ← hsrc.not_sameShape hdst]
  exact (raiseIf_checks _ _).bind_ok fun _ => rfl

/-- Settles O28: CLEAR checks its destination's format, then its shape. -/
theorem clearChecksOperands : Obligations.ClearChecksOperands := by
  intro s e
  exact exec_of_checks (i := .clear) (clearPlan_checks s.latched)

/-- Settles O29: both commands make the checks of `checkPixel` and no others, each on its own descriptor. -/
theorem pixelCommandsCheckOperands : Obligations.PixelCommandsCheckOperands := by
  intro s e
  have hget : ChecksInOrder (commandPlan .getPixel s.latched) _ :=
    (checkPixel_checks s.latched s.latched.src).bind_ok fun _ => rfl
  have hset : ChecksInOrder (commandPlan .setPixel s.latched) _ :=
    (checkPixel_checks s.latched s.latched.dst).bind_ok fun _ => rfl
  exact ⟨exec_of_checks hget, exec_of_checks hset⟩

/-- Settles O30: COPY and DETECT_BLUR make the checks of `sameShape_checks`, each before its own plan. -/
theorem copyAndBlurCheckOperands : Obligations.CopyAndBlurCheckOperands := by
  rintro s e i (rfl | rfl)
  · have hcopy : ChecksInOrder (commandPlan .copy s.latched) _ := sameShape_checks s.latched fun _ => rfl
    exact exec_of_checks hcopy
  · have hblur : ChecksInOrder (commandPlan .detectBlur s.latched) _ := sameShape_checks s.latched fun _ => rfl
    exact exec_of_checks hblur

end Sys2Proof.Machine
end

section
/-! The pixel-lane commands where their checks pass and no access is refused (40_pixel_lanes.md R121 to R126): what each
leaves in memory and in the registers, and that nothing else changes. -/

namespace Sys2Proof.Machine

/-! ### Checks that pass -/

theorem Descriptor.names.checkFmt_eq {d : Descriptor} {b : Buffer} (h : d.names b) : checkFmt d = .ok b.fmt := by
  obtain ⟨hfmt, -⟩ := h
  exact (checkFmt_eq_ok d b.fmt).2 hfmt

/-- The shape of a named buffer passes, and the check answers that buffer (20_memory.md R69). -/
theorem Descriptor.names.checkShape_eq {d : Descriptor} {b : Buffer} (h : d.names b) : checkShape d b.fmt = .ok b := by
  obtain ⟨hfmt, hbase, hwidth, hheight, hstride, hw, hh, hrow, hlimit⟩ := h
  have hgood : ¬ d.badShape = true := by
    simp only [Descriptor.badShape, bppOfCode, hfmt, Bool.or_eq_true, decide_eq_true_eq]
    rw [← hbase, ← hwidth, ← hheight, ← hstride]
    omega
  rw [checkShape_eq_ite hfmt, if_neg hgood, ← hbase, ← hstride, Descriptor.width, Descriptor.height, ← hwidth, ← hheight]

/-- The checks of a pixel command pass on a named buffer and a pixel in it (40_pixel_lanes.md R123, R124). -/
theorem Descriptor.names.checkPixel_eq {l : Operands} {d : Descriptor} {b : Buffer} (h : d.names b) (hx : l.pixX < b.width)
    (hy : l.pixY < b.height) : checkPixel l d = .ok b := by
  simp only [checkPixel, except_bind_eq_ok, raiseIf_eq_ok]
  exact ⟨b.fmt, h.checkFmt_eq, b, h.checkShape_eq, (), by simp [hx, hy], rfl⟩

theorem checkBoth_of_names {l : Operands} {s d : Buffer} (hsrc : l.src.names s) (hdst : l.dst.names d) :
    checkBoth l (fun _ => .ok ()) = .ok (s, d) := by
  simp only [checkBoth, except_bind_eq_ok]
  exact ⟨s.fmt, hsrc.checkFmt_eq, d.fmt, hdst.checkFmt_eq, (), trivial, s, hsrc.checkShape_eq, d, hdst.checkShape_eq, rfl⟩

/-! ### The clean end of a command -/

/-- A command whose accesses are all admitted, with no overlap and no breach, ends by its rule (20_memory.md R79). -/
theorem exec_clean {i : Instr} {s : State} {p : Plan} (hplan : commandPlan i s.latched = .ok p)
    (hk : p.kernelReads = []) (hr : ∀ a ∈ p.reads, memOK s.platform .read a = true)
    (hw : ∀ a ∈ p.writes, memOK s.platform .write a = true) (ho : p.overlaps = false) (hb : s.breach = Breach.none) :
    exec i s = .next ((s.withMem (s.mem.writeAll (p.cells s.mem))).writeResult p.result s.mem).complete := by
  rw [exec_eq_runCommand, hplan, State.runCommand_ok, s.runPlan_clean p (by simp [hk]) hr hw ho hb]

/-- Without a result register, memory is all that changes. -/
theorem exec_clean_ended {i : Instr} {s : State} {p : Plan} (hplan : commandPlan i s.latched = .ok p)
    (hk : p.kernelReads = []) (hr : ∀ a ∈ p.reads, memOK s.platform .read a = true)
    (hw : ∀ a ∈ p.writes, memOK s.platform .write a = true) (ho : p.overlaps = false) (hb : s.breach = Breach.none)
    (hresult : p.result = .none) : exec i s = .next (s.ended (s.mem.writeAll (p.cells s.mem))) := by
  rw [exec_clean hplan hk hr hw ho hb, hresult]
  rfl

/-- Settles O8: NOP's plan touches nothing. -/
theorem nopOnlyCompletes : Obligations.NopOnlyCompletes := by
  intro s hb
  rw [exec_clean_ended (p := Plan.empty) rfl rfl (by simp [Plan.empty]) (by simp [Plan.empty, Plan.writes]) rfl hb rfl]
  rfl

/-! ### CLEAR -/

/-- The plan of CLEAR on a named destination (40_pixel_lanes.md R122). -/
def clearStores (d : Buffer) : Plan :=
  { Plan.empty with stores := d.region.map fun a => { addr := a, value := fun _ => 0 } }

theorem clearPlan_of_names {l : Operands} {d : Buffer} (h : l.dst.names d) : clearPlan l = .ok (clearStores d) := by
  simp only [clearPlan, except_bind_eq_ok]
  exact ⟨d.fmt, h.checkFmt_eq, d, h.checkShape_eq, rfl⟩

theorem clearStores_writes (d : Buffer) : (clearStores d).writes = d.region := by
  simp [clearStores, Plan.writes, Function.comp_def]

/-- Settles O9: the stores are the region's bytes, each once. -/
theorem clearZeroFillsRegion : Obligations.ClearZeroFillsRegion := by
  intro s d hwf hb hdst haccess
  refine ⟨_, exec_clean_ended (i := .clear) (clearPlan_of_names hdst) rfl (by simp [clearStores, Plan.empty]) (fun a ha => ?_)
    rfl hb rfl, fun a => ?_⟩
  · rw [clearStores_writes, Buffer.mem_region] at ha
    exact haccess a ha.1 ha.2
  · by_cases ha : a ∈ d.region
    · refine Eq.trans ?_ (if_pos ((d.mem_region a).1 ha)).symm
      exact Plan.read_stored (clearStores d) s.mem ⟨a, fun _ => 0⟩ hwf
        (by rw [clearStores_writes]; exact List.nodup_range') (List.mem_map.2 ⟨a, ha, rfl⟩)
    · refine Eq.trans ?_ (if_neg fun h => ha ((d.mem_region a).2 h)).symm
      exact Plan.read_other _ _ _ hwf (by rwa [clearStores_writes])

/-! ### GET_PIXEL -/

/-- A lane fits into a PIX register (20_memory.md R65, 10_state.md R24). -/
theorem Buffer.laneRead_lt (b : Buffer) (m : Memory) (x y l : Nat) : b.laneRead m x y l < 2 ^ 16 := by
  have hle := b.laneRead_le_lanemax m x y l
  have hmax : b.fmt.lanemax < 2 ^ 16 := by cases b.fmt <;> decide
  omega

/-- The four results of GET_PIXEL by the number of lanes (40_pixel_lanes.md R123). -/
theorem readPixel_lanes (b : Buffer) (x y : Nat) (m : Memory) :
    let p := readPixel b x y m
    p.b.toNat = b.laneRead m x y 0 ∧
      p.g.toNat = (if b.fmt.nlanes = 1 then b.laneRead m x y 0 else b.laneRead m x y 1) ∧
      p.r.toNat = (if b.fmt.nlanes = 1 then b.laneRead m x y 0 else b.laneRead m x y 2) ∧
      p.a.toNat = if b.fmt.nlanes = 4 then b.laneRead m x y 3 else 0 := by
  have hlane (l : Nat) : (BitVec.ofNat 16 (b.laneRead m x y l)).toNat = b.laneRead m x y l := by
    rw [BitVec.toNat_ofNat, Nat.mod_eq_of_lt (b.laneRead_lt m x y l)]
  cases hfmt : b.fmt <;> simp only [readPixel, hfmt, Format.nlanes, hlane] <;> simp

theorem getPixelPlan_of_names {l : Operands} {b : Buffer} (h : l.src.names b) (hx : l.pixX < b.width)
    (hy : l.pixY < b.height) :
    getPixelPlan l = .ok { Plan.empty with
      reads := b.pixelBytes l.pixX l.pixY, result := .pixel (readPixel b l.pixX l.pixY) } := by
  simp only [getPixelPlan, except_bind_eq_ok]
  exact ⟨b, h.checkPixel_eq hx hy, rfl⟩

/-- Settles O10: nothing is stored, and the result is that of `readPixel`. -/
theorem getPixelReadsLanes : Obligations.GetPixelReadsLanes := by
  intro s b hb hsrc hx hy haccess
  refine ⟨readPixel b s.latched.pixX s.latched.pixY s.mem, ?_, readPixel_lanes b _ _ s.mem⟩
  rw [exec_clean (i := .getPixel) (getPixelPlan_of_names hsrc hx hy) rfl (fun a ha => ?_) (by simp [Plan.empty, Plan.writes])
    rfl hb]
  · rfl
  · obtain ⟨i, hi, rfl⟩ := (b.mem_pixelBytes _ _ a).1 ha
    exact haccess i hi

/-! ### Lanes that have been written -/

/-- A read of a value's bytes is the value, cut to as many bytes (20_memory.md R62). -/
theorem Memory.readLE_of_byteOf (m : Memory) (a v n : Nat) (h : ∀ k, k < n → m.read (a + k) = byteOf v k) :
    m.readLE a n = v % 256 ^ n := by
  induction n generalizing a v with
  | zero => simp [Memory.readLE, Nat.mod_one]
  | succ n ih =>
    have hhead : (m.read a).toNat = v % 256 := by simpa [byteOf] using congrArg BitVec.toNat (h 0 n.succ_pos)
    have htail : m.readLE (a + 1) n = v / 256 % 256 ^ n := by
      refine ih (a + 1) (v / 256) fun k hk => ?_
      rw [Nat.add_right_comm, Nat.add_assoc, h (k + 1) (Nat.succ_lt_succ hk), byteOf, byteOf, Nat.pow_succ',
        Nat.div_div_eq_div_mul]
    rw [Memory.readLE, hhead, htail, Nat.pow_succ', Nat.mod_mul]

theorem Buffer.addrs_laneWrite (b : Buffer) (x y l : Nat) (v : Memory → Nat) :
    (b.laneWrite x y l v).map Store.addr = List.range' (b.laneAddr x y l) b.fmt.laneBytes := by
  simp [Buffer.laneWrite, Function.comp_def, List.range'_eq_map_range]

/-- Blocks of k addresses in a row are one run of addresses. -/
theorem flatMap_range'_blocks (a n k : Nat) :
    ((List.range n).flatMap fun l => List.range' (a + l * k) k) = List.range' a (n * k) := by
  induction n with
  | zero => simp
  | succ n ih => rw [List.range_succ, List.flatMap_append, ih, List.flatMap_singleton, List.range'_append_1, Nat.succ_mul]

/-- Writing every lane of a pixel stores its bytes in their order, each once (20_memory.md R68). -/
theorem Buffer.addrs_writeLanes (b : Buffer) (x y : Nat) (v : Nat → Memory → Nat) :
    ((List.range b.fmt.nlanes).flatMap fun l => b.laneWrite x y l (v l)).map Store.addr = b.pixelBytes x y := by
  simp only [List.map_flatMap, Buffer.addrs_laneWrite, Buffer.laneAddr, Format.laneoff, flatMap_range'_blocks,
    Format.nlanes_mul_laneBytes, Buffer.pixelBytes]

/-- A lane that a plan writes reads back with its value, where no address is stored twice (20_memory.md R67, R68). -/
theorem Plan.laneRead_stored (p : Plan) {m : Memory} {b : Buffer} {x y l : Nat} {v : Memory → Nat} (hwf : m.wf = true)
    (hnodup : p.writes.Nodup) (hstored : ∀ c ∈ b.laneWrite x y l v, c ∈ p.stores) (hv : v m ≤ b.fmt.lanemax) :
    b.laneRead (m.writeAll (p.cells m)) x y l = v m := by
  have hbytes : ∀ k, k < b.fmt.laneBytes → (m.writeAll (p.cells m)).read (b.laneAddr x y l + k) = byteOf (v m) k :=
    fun k hk => p.read_stored m ⟨b.laneAddr x y l + k, fun m => byteOf (v m) k⟩ hwf hnodup
      (hstored _ (List.mem_map.2 ⟨k, List.mem_range.2 hk, rfl⟩))
  rw [Buffer.laneRead, Memory.readLE_of_byteOf _ _ _ _ hbytes, ← Format.lanemax_add_one]
  exact Nat.mod_eq_of_lt (Nat.lt_succ_of_le hv)

/-! ### SET_PIXEL -/

theorem iclamp_le (v : Int) {lo hi : Int} (h : lo ≤ hi) : iclamp v lo hi ≤ hi := by
  unfold iclamp
  split_ifs <;> omega

/-- The luma is a lane value, whatever it is computed from (40_pixel_lanes.md R125). -/
theorem luma_le (r g b max : Nat) : luma r g b max ≤ max :=
  Int.toNat_le.2 (iclamp_le _ (Int.natCast_nonneg max))

/-- Each lane that SET_PIXEL writes is a lane value (40_pixel_lanes.md R124). -/
theorem pixelLanes_le (l : Operands) (f : Format) (k : Nat) : (pixelLanes l f).getD k 0 ≤ f.lanemax := by
  have hpart (v : Half) : v.toNat % 2 ^ f.lw ≤ f.lanemax := Nat.le_sub_one_of_lt (Nat.mod_lt _ (Nat.two_pow_pos _))
  have hall : ∀ v ∈ pixelLanes l f, v ≤ f.lanemax := by
    cases f <;> simp [pixelLanes, luma_le, hpart]
  rw [List.getD_eq_getElem?_getD]
  cases hget : (pixelLanes l f)[k]? with
  | none => exact Nat.zero_le _
  | some v => exact hall v (List.mem_of_getElem? hget)

/-- Which lanes SET_PIXEL writes, by their number (40_pixel_lanes.md R124). -/
theorem pixelLanes_getD (l : Operands) (f : Format) :
    let part (v : Half) : Nat := v.toNat % 2 ^ f.lw
    let lane (k : Nat) : Nat := (pixelLanes l f).getD k 0
    (f.nlanes = 1 → lane 0 = luma (part l.pixR) (part l.pixG) (part l.pixB) f.lanemax) ∧
      (f.nlanes ≠ 1 → lane 0 = part l.pixB ∧ lane 1 = part l.pixG ∧ lane 2 = part l.pixR) ∧
      (f.nlanes = 4 → lane 3 = part l.pixA) := by
  cases f <;> simp [pixelLanes, Format.nlanes]

/-- The plan of SET_PIXEL on a pixel of a named destination (40_pixel_lanes.md R124). -/
def setPixelStores (l : Operands) (b : Buffer) : Plan :=
  { Plan.empty with
    stores := (List.range b.fmt.nlanes).flatMap fun k =>
      b.laneWrite l.pixX l.pixY k fun _ => (pixelLanes l b.fmt).getD k 0 }

theorem setPixelPlan_of_names {l : Operands} {b : Buffer} (h : l.dst.names b) (hx : l.pixX < b.width)
    (hy : l.pixY < b.height) : setPixelPlan l = .ok (setPixelStores l b) := by
  simp only [setPixelPlan, except_bind_eq_ok]
  exact ⟨b, h.checkPixel_eq hx hy, rfl⟩

theorem setPixelStores_writes (l : Operands) (b : Buffer) : (setPixelStores l b).writes = b.pixelBytes l.pixX l.pixY :=
  b.addrs_writeLanes _ _ fun k _ => (pixelLanes l b.fmt).getD k 0

/-- Every lane of the pixel reads back as SET_PIXEL wrote it (40_pixel_lanes.md R124). -/
theorem setPixelStores_laneRead (l : Operands) (b : Buffer) {m : Memory} (hwf : m.wf = true) {k : Nat}
    (hk : k < b.fmt.nlanes) :
    b.laneRead (m.writeAll ((setPixelStores l b).cells m)) l.pixX l.pixY k = (pixelLanes l b.fmt).getD k 0 := by
  refine (setPixelStores l b).laneRead_stored (v := fun _ => (pixelLanes l b.fmt).getD k 0) hwf ?_ (fun c hc => ?_)
    (pixelLanes_le l b.fmt k)
  · rw [setPixelStores_writes]
    exact List.nodup_range'
  · exact List.mem_flatMap.2 ⟨k, List.mem_range.2 hk, hc⟩

/-- Settles O11: the stores are the pixel's bytes, each once, and the lanes read back as `pixelLanes` gives them. -/
theorem setPixelWritesLanes : Obligations.SetPixelWritesLanes := by
  intro s b hwf hb hdst hx hy haccess
  have hlane {k : Nat} (hk : k < b.fmt.nlanes) := setPixelStores_laneRead s.latched b hwf hk
  have hnlanes : b.fmt.nlanes = 1 ∨ 3 ≤ b.fmt.nlanes := by cases b.fmt <;> decide
  obtain ⟨hgray, hcolour, halpha⟩ := pixelLanes_getD s.latched b.fmt
  refine ⟨_, exec_clean_ended (i := .setPixel) (setPixelPlan_of_names hdst hx hy) rfl (by simp [setPixelStores, Plan.empty])
    (fun a ha => ?_) rfl hb rfl, fun h1 => ?_, fun hn => ?_, fun h4 => ?_, fun a ha => ?_⟩
  · rw [setPixelStores_writes, Buffer.mem_pixelBytes] at ha
    obtain ⟨i, hi, rfl⟩ := ha
    exact haccess i hi
  · exact (hlane (by omega)).trans (hgray h1)
  · obtain ⟨hblue, hgreen, hred⟩ := hcolour hn
    exact ⟨(hlane (by omega)).trans hblue, (hlane (by omega)).trans hgreen, (hlane (by omega)).trans hred⟩
  · exact (hlane (by omega)).trans (halpha h4)
  · refine Plan.read_other _ _ _ hwf fun hmem => ?_
    rw [setPixelStores_writes, Buffer.mem_pixelBytes] at hmem
    obtain ⟨i, hi, rfl⟩ := hmem
    exact ha i hi rfl

/-! ### COPY -/

/-- The cells COPY goes over: row y, byte i of the row (40_pixel_lanes.md R126). -/
def copyCells (s d : Buffer) : List (Nat × Nat) :=
  (List.range s.height).flatMap fun y => (List.range (min s.stride d.stride)).map fun i => (y, i)

/-- The plan of COPY between named buffers (40_pixel_lanes.md R126). -/
def copyStores (s d : Buffer) : Plan :=
  { Plan.empty with
    reads := (copyCells s d).map fun c => s.base + c.1 * s.stride + c.2
    stores := (copyCells s d).map fun c =>
      { addr := d.base + c.1 * d.stride + c.2, value := fun m => m.read (s.base + c.1 * s.stride + c.2) }
    overlaps := !(s.overlap d).isEmpty
    overlapped := s.overlap d }

theorem copyPlan_of_names {l : Operands} {s d : Buffer} (hsrc : l.src.names s) (hdst : l.dst.names d)
    (hshape : s.sameShape d = true) : copyPlan l = .ok (copyStores s d) := by
  simp only [copyPlan, except_bind_eq_ok, raiseIf_eq_ok]
  exact ⟨(s, d), checkBoth_of_names hsrc hdst, (), by simp [hshape], rfl⟩

theorem mem_copyCells (s d : Buffer) (y i : Nat) : (y, i) ∈ copyCells s d ↔ y < s.height ∧ i < min s.stride d.stride := by
  simp [copyCells]

theorem copyCells_nodup (s d : Buffer) : (copyCells s d).Nodup :=
  List.nodup_range.product List.nodup_range

/-- A place in rows of n bytes has one row and one byte. -/
theorem row_byte_inj {n y i y' i' : Nat} (hi : i < n) (hi' : i' < n) (h : y * n + i = y' * n + i') : y = y' ∧ i = i' := by
  have hy : y = y' := by
    have hdiv := congrArg (· / n) h
    simpa [Nat.mul_comm _ n, Nat.mul_add_div (Nat.zero_lt_of_lt hi), Nat.div_eq_of_lt hi, Nat.div_eq_of_lt hi'] using hdiv
  subst hy
  exact ⟨rfl, Nat.add_left_cancel h⟩

theorem copyStores_writes (s d : Buffer) :
    (copyStores s d).writes = (copyCells s d).map fun c => d.base + c.1 * d.stride + c.2 := by
  simp [copyStores, Plan.writes, Function.comp_def]

/-- No byte is stored twice: a row's copied bytes end within its stride (40_pixel_lanes.md R126). -/
theorem copyStores_writes_nodup (s d : Buffer) : (copyStores s d).writes.Nodup := by
  rw [copyStores_writes]
  refine (copyCells_nodup s d).map_on ?_
  rintro ⟨y, i⟩ hc ⟨y', i'⟩ hc' h
  obtain ⟨-, hi⟩ := (mem_copyCells s d y i).1 hc
  obtain ⟨-, hi'⟩ := (mem_copyCells s d y' i').1 hc'
  obtain ⟨rfl, rfl⟩ := row_byte_inj (n := d.stride) (y := y) (y' := y') (by omega : i < _) (by omega : i' < _)
    (by simp only at h; omega)
  rfl

/-- Settles O14: the buffers lie apart, and the stores are the first bytes of each row, each once. -/
theorem copyCopiesRows : Obligations.CopyCopiesRows := by
  intro s a b hwf hb hsrc hdst hwidth hheight hfmt hapart haccess
  have hshape : a.sameShape b = true := Buffer.sameShape_iff.2 ⟨hwidth, hheight, hfmt⟩
  have hoverlaps : (copyStores a b).overlaps = false := by simp [copyStores, Buffer.overlap_eq_nil a b hapart]
  refine ⟨_, exec_clean_ended (i := .copy) (copyPlan_of_names hsrc hdst hshape) rfl (fun n hn => ?_) (fun n hn => ?_)
    hoverlaps hb rfl, fun y hy i hi => ?_, fun n hn => ?_⟩
  · obtain ⟨⟨y, i⟩, hc, rfl⟩ := List.mem_map.1 hn
    obtain ⟨hy, hi⟩ := (mem_copyCells a b y i).1 hc
    exact (haccess y hy i hi).1
  · rw [copyStores_writes] at hn
    obtain ⟨⟨y, i⟩, hc, rfl⟩ := List.mem_map.1 hn
    obtain ⟨hy, hi⟩ := (mem_copyCells a b y i).1 hc
    exact (haccess y hy i hi).2
  · exact Plan.read_stored (copyStores a b) s.mem ⟨_, fun m => m.read (a.base + y * a.stride + i)⟩ hwf
      (copyStores_writes_nodup a b) (List.mem_map.2 ⟨(y, i), (mem_copyCells a b y i).2 ⟨hy, hi⟩, rfl⟩)
  · refine Plan.read_other _ _ _ hwf fun hmem => ?_
    rw [copyStores_writes] at hmem
    obtain ⟨⟨y, i⟩, hc, rfl⟩ := List.mem_map.1 hmem
    obtain ⟨hy, hi⟩ := (mem_copyCells a b y i).1 hc
    exact hn y hy i hi rfl

end Sys2Proof.Machine
end

section
/-! The luma of a pixel (40_pixel_lanes.md R125): the roundings move the weighted sum by less than 1, so it stays between 0
and the greatest lane value's successor. -/

namespace Sys2Proof.Machine

/-- Below 2^20, a rounding moves a value by at most one part in 2^33 of a unit. -/
theorem round64_absolute_error {q : ℚ} (hq : |q| < 2 ^ 20) : |round64 q - q| ≤ 1 / 2 ^ 33 := by
  by_cases h0 : q = 0
  · simp [h0]
  have hbinade : binade q < 20 := binade_lt q 20 h0 (by simpa [pow2_eq_zpow] using hq)
  have hulp : ulp64 q ≤ 2 ^ (-32 : Int) := by
    rw [ulp64_eq_zpow]
    exact zpow_le_zpow_right₀ one_le_two (by omega)
  have herr := round64_error q
  norm_num at hulp ⊢
  linarith

/-- Zero is a multiple of every spacing, so a rounding does not pass it. -/
theorem round64_nonneg {q : ℚ} (hq : 0 ≤ q) : 0 ≤ round64 q := by
  have hzero := round64_nearest_multiple q 0
  rw [Int.cast_zero, zero_mul, zero_sub, abs_neg, abs_of_nonneg hq, abs_le] at hzero
  linarith [hzero.1]

/-- A rounding of a value from 0 to below 2^20 stays at 0 or above and grows by at most 1/2^33. -/
theorem round64_between_of_lt {q : ℚ} (h0 : 0 ≤ q) (hq : q < 2 ^ 20) : 0 ≤ round64 q ∧ round64 q ≤ q + 1 / 2 ^ 33 := by
  have herr := (abs_le.1 (round64_absolute_error (abs_lt.2 ⟨by linarith, hq⟩))).2
  exact ⟨round64_nonneg h0, by linarith⟩

/-- A lane times its weight, rounded: at least 0, and above the product by at most 1/2^16. -/
theorem weighted_lane_between {v : Nat} {n : Int} {d : Nat} (hv : v ≤ 65535) (hn0 : 0 ≤ n) (hn : n ≤ d) :
    0 ≤ fmul (f64 v) (f64Const n d) ∧ fmul (f64 v) (f64Const n d) ≤ v * (n / d : ℚ) + 1 / 2 ^ 16 := by
  have hvq : (v : ℚ) ≤ 65535 := by exact_mod_cast hv
  have hv0 : (0 : ℚ) ≤ v := Nat.cast_nonneg v
  have hw0 : (0 : ℚ) ≤ n / d := div_nonneg (by exact_mod_cast hn0) (Nat.cast_nonneg d)
  have hw1 : (n / d : ℚ) ≤ 1 := div_le_one_of_le₀ (by exact_mod_cast hn) (Nat.cast_nonneg d)
  rw [fmul, f64_dimension hv, f64Const]
  obtain ⟨hc0, hc1⟩ := round64_between_of_lt hw0 (by linarith)
  generalize (n / d : ℚ) = w at *
  have hprod : v * round64 w ≤ v * w + 65535 / 2 ^ 33 := by nlinarith
  have hvw : v * w ≤ 65535 := by nlinarith
  obtain ⟨hp0, hp1⟩ := round64_between_of_lt (mul_nonneg hv0 hc0) (by linarith)
  exact ⟨hp0, by linarith⟩

/-- The weighted sum before truncation (40_pixel_lanes.md R125). -/
def lumaSum (r g b : Nat) : F64 :=
  fadd (fadd (fmul (f64 r) (f64Const 2125 10000)) (fmul (f64 g) (f64Const 7154 10000)))
    (fmul (f64 b) (f64Const 721 10000))

/-- The weights add up to 1, so the sum of lanes up to m stays below m + 1 (40_pixel_lanes.md R125). -/
theorem lumaSum_between {r g b m : Nat} (hm : m ≤ 65535) (hr : r ≤ m) (hg : g ≤ m) (hb : b ≤ m) :
    0 ≤ lumaSum r g b ∧ lumaSum r g b < m + 1 := by
  obtain ⟨hr0, hr1⟩ := weighted_lane_between (hr.trans hm) (n := 2125) (d := 10000) (by norm_num) (by norm_num)
  obtain ⟨hg0, hg1⟩ := weighted_lane_between (hg.trans hm) (n := 7154) (d := 10000) (by norm_num) (by norm_num)
  obtain ⟨hb0, hb1⟩ := weighted_lane_between (hb.trans hm) (n := 721) (d := 10000) (by norm_num) (by norm_num)
  have hmq : (m : ℚ) ≤ 65535 := by exact_mod_cast hm
  have hrq : (r : ℚ) ≤ m := by exact_mod_cast hr
  have hgq : (g : ℚ) ≤ m := by exact_mod_cast hg
  have hbq : (b : ℚ) ≤ m := by exact_mod_cast hb
  push_cast at hr1 hg1 hb1
  obtain ⟨hrg0, hrg1⟩ := round64_between_of_lt (add_nonneg hr0 hg0) (by linarith)
  obtain ⟨hy0, hy1⟩ := round64_between_of_lt (add_nonneg hrg0 hb0) (by linarith)
  exact ⟨hy0, hy1.trans_lt (by linarith)⟩

/-- A value between 0 and m + 1 truncates into the range of the clamp. -/
theorem ftrunc_between {q : ℚ} {m : Nat} (h0 : 0 ≤ q) (hq : q < m + 1) : 0 ≤ ftrunc q ∧ ftrunc q ≤ m := by
  have htrunc : ftrunc q = ⌊q⌋ := if_neg (not_lt.2 h0)
  rw [htrunc]
  exact ⟨Int.floor_nonneg.2 h0, Int.lt_add_one_iff.1 (Int.floor_lt.2 (by exact_mod_cast hq))⟩

theorem iclamp_of_mem {v lo hi : Int} (hlo : lo ≤ v) (hhi : v ≤ hi) : iclamp v lo hi = v := by
  rw [iclamp, if_neg (not_lt.2 hlo), if_neg (not_lt.2 hhi)]

/-- Settles O12: the truncated sum lies in the range of the clamp. -/
theorem lumaClampNeverBinds : Obligations.LumaClampNeverBinds := by
  intro r g b m hm hr hg hb
  obtain ⟨h0, hlt⟩ := lumaSum_between (by omega) hr hg hb
  obtain ⟨hlo, hhi⟩ := ftrunc_between h0 hlt
  have hluma : luma r g b m = (iclamp (ftrunc (lumaSum r g b)) 0 m).toNat := rfl
  rw [hluma, iclamp_of_mem hlo hhi]
  exact Int.toNat_of_nonneg hlo

/-- Settles O13: the exact sum is the grey itself, so the last bits of the roundings decide, and each of the 256 is evaluated. -/
theorem greyLumaExceptions : Obligations.GreyLumaExceptions := by
  unfold Obligations.GreyLumaExceptions
  decide +kernel

end Sys2Proof.Machine
end

section
/-! The operand checks of RESAMPLE in their order (41_resample.md R160, R166). -/

namespace Sys2Proof.Machine

/-- The formats with 16-bit lanes are those of codes 1, 4 and 5 (20_memory.md R63). -/
theorem Format.lw_eq_16_iff {c : BitVec 3} {f : Format} (h : Format.ofCode c = some f) :
    f.lw = 16 ↔ c.toNat ∈ [1, 4, 5] := by
  have hall : ∀ c : BitVec 3, (Format.ofCode c).map Format.lw = some 16 ↔ c.toNat ∈ [1, 4, 5] := by decide
  simpa [h] using hall c

/-- Two named buffers have one format exactly where the FMT registers are equal (10_state.md R41). -/
theorem Descriptor.names.fmt_eq_iff {d d' : Descriptor} {a b : Buffer} (ha : d.names a) (hb : d'.names b) :
    a.fmt = b.fmt ↔ d.fmt = d'.fmt := by
  obtain ⟨hafmt, -⟩ := ha
  obtain ⟨hbfmt, -⟩ := hb
  constructor
  · intro h
    exact Format.ofCode_inj hafmt (h ▸ hbfmt)
  · intro h
    exact Option.some.inj (hafmt.symm.trans (h ▸ hbfmt))

/-- The bicubic check stands between the formats and the shapes, that of equal formats after the shapes (41_resample.md
R160). -/
theorem resampleSetup_checks (l : Operands) (bicubic : Bool) :
    ChecksInOrder (resampleSetup l bicubic)
      [ (l.src.badFormat, .unsupportedFormat), (l.dst.badFormat, .unsupportedFormat),
        (bicubic && decide (l.src.fmt.toNat ∈ [1, 4, 5]), .unsupportedFormat),
        (l.src.badShape, .sizeMismatch), (l.dst.badShape, .sizeMismatch),
        (decide (l.src.fmt ≠ l.dst.fmt), .sizeMismatch) ] := by
  have hlanes (f : Format) (hf : checkFmt l.src = .ok f) :
      ChecksInOrder (raiseIf (bicubic && decide (f.lw = 16)) .unsupportedFormat)
        [(bicubic && decide (l.src.fmt.toNat ∈ [1, 4, 5]), .unsupportedFormat)] := by
    rw [decide_eq_decide.2 (Format.lw_eq_16_iff ((checkFmt_eq_ok _ _).1 hf))]
    exact raiseIf_checks _ _
  refine (checkBoth_checks hlanes).bind fun ⟨s, d⟩ hboth => ?_
  obtain ⟨hsrc, hdst, -⟩ := checkBoth_eq_ok hboth
  have hfmt : decide (l.src.fmt ≠ l.dst.fmt) = !decide (s.fmt = d.fmt) := by
    rw [decide_not, decide_eq_decide.2 (hsrc.fmt_eq_iff hdst)]
  rw [hfmt]
  exact (raiseIf_checks _ _).bind_ok fun _ => rfl

/-- Settles O31: each algorithm makes the checks of `resampleSetup` and no others. -/
theorem resampleChecksOperands : Obligations.ResampleChecksOperands := by
  rintro s e i (rfl | rfl | rfl)
  · have hnearest : ChecksInOrder (commandPlan .resampleNearest s.latched) _ :=
      (resampleSetup_checks s.latched false).bind_ok fun _ => rfl
    exact exec_of_checks hnearest
  · have hbilinear : ChecksInOrder (commandPlan .resampleBilinear s.latched) _ :=
      (resampleSetup_checks s.latched false).bind_ok fun _ => rfl
    exact exec_of_checks hbilinear
  · have hbicubic : ChecksInOrder (commandPlan .resampleBicubic s.latched) _ :=
      (resampleSetup_checks s.latched true).bind_ok fun _ => rfl
    exact exec_of_checks hbicubic

end Sys2Proof.Machine
end

section
/-! RESAMPLE.NEAREST and RESAMPLE.BILINEAR where their checks pass and no access is refused (41_resample.md R160 to R162,
R168): each stores every byte of every destination pixel once, and at equal sizes gives the source back. -/

namespace Sys2Proof.Machine

/-! ### Checks that pass -/

/-- The checks of two descriptors pass on named buffers, where those that stand between formats and shapes pass. -/
theorem checkBoth_between_of_names {l : Operands} {s d : Buffer} {between : Format → Except CmdError Unit}
    (hsrc : l.src.names s) (hdst : l.dst.names d) (hbetween : between s.fmt = .ok ()) :
    checkBoth l between = .ok (s, d) := by
  simp only [checkBoth, except_bind_eq_ok]
  exact ⟨s.fmt, hsrc.checkFmt_eq, d.fmt, hdst.checkFmt_eq, (), hbetween, s, hsrc.checkShape_eq, d, hdst.checkShape_eq, rfl⟩

/-- The checks of RESAMPLE pass on named buffers of one format, with 8-bit lanes where it is bicubic (41_resample.md R160,
R166). -/
theorem resampleSetup_of_names {l : Operands} {s d : Buffer} {bicubic : Bool} (hsrc : l.src.names s)
    (hdst : l.dst.names d) (hfmt : s.fmt = d.fmt) (hlanes : bicubic = true → s.fmt.lw ≠ 16) :
    resampleSetup l bicubic = .ok (s, d) := by
  simp only [resampleSetup, except_bind_eq_ok, raiseIf_eq_ok]
  exact ⟨(s, d), checkBoth_between_of_names hsrc hdst ((raiseIf_eq_ok _ _ _).2 (by simpa using hlanes)), (),
    by simp [hfmt], rfl⟩

/-! ### Plans that fill the destination's pixels -/

/-- The positions of a buffer are listed each once (00_scope.md R12). -/
theorem Buffer.pixels_nodup (b : Buffer) : b.pixels.Nodup := by
  refine List.nodup_flatMap.2 ⟨fun y _ => List.nodup_range.map fun x x' h => congrArg Prod.fst h, ?_⟩
  refine List.nodup_range.pairwise_of_forall_ne fun y _ y' _ hne p hp hp' => ?_
  obtain ⟨x, -, rfl⟩ := List.mem_map.1 hp
  obtain ⟨x', -, h⟩ := List.mem_map.1 hp'
  exact hne (congrArg Prod.snd h).symm

/-- The pixel bytes of a named buffer have different addresses (20_memory.md R66, R69). -/
theorem Descriptor.names.allPixelBytes_nodup {d : Descriptor} {b : Buffer} (h : d.names b) : b.allPixelBytes.Nodup := by
  refine List.nodup_flatMap.2 ⟨fun _ _ => List.nodup_range', ?_⟩
  refine b.pixels_nodup.pairwise_of_forall_ne fun p hp q hq hne a ha ha' => ?_
  obtain ⟨i, hi, rfl⟩ := (b.mem_pixelBytes _ _ _).1 ha
  obtain ⟨j, hj, heq⟩ := (b.mem_pixelBytes _ _ _).1 ha'
  obtain ⟨hx, hy, -⟩ := b.pixAddr_add_inj _ _ _ _ _ _ h.width_mul_bpp_le ((b.mem_pixels p).1 hp).1 hi
    ((b.mem_pixels q).1 hq).1 hj heq
  exact hne (Prod.ext hx hy)

/-- What the three plans of RESAMPLE have in common: every byte of every pixel of d is stored, and nothing else; overlap is
that of the regions (20_memory.md R78, 41_resample.md R168). -/
structure Plan.Fills (p : Plan) (s d : Buffer) : Prop where
  kernelReads : p.kernelReads = []
  writes : p.writes = d.allPixelBytes
  overlaps : p.overlaps = !(s.overlap d).isEmpty
  result : p.result = .none

section
variable {s : State} {p : Plan} {a b : Buffer} (hp : p.Fills a b)
include hp

/-- Between buffers that lie apart, with every access admitted, the command ends with its stores in memory. -/
theorem Plan.Fills.exec_ended {i : Instr} (hplan : commandPlan i s.latched = .ok p) (hb : s.breach = Breach.none)
    (hapart : a.apart b) (hreads : ∀ n ∈ p.reads, memOK s.platform .read n = true) (hadmits : s.admitsPixels .write b) :
    exec i s = .next (s.ended (s.mem.writeAll (p.cells s.mem))) := by
  have hoverlaps : p.overlaps = false := by simp [hp.overlaps, Buffer.overlap_eq_nil a b hapart]
  refine exec_clean_ended hplan hp.kernelReads hreads (fun n hn => ?_) hoverlaps hb hp.result
  rw [hp.writes, Buffer.mem_allPixelBytes] at hn
  obtain ⟨y, hy, x, hx, j, hj, rfl⟩ := hn
  exact hadmits y hy x hx j hj

/-- Padding and every byte outside the destination keep their values (41_resample.md R168). -/
theorem Plan.Fills.read_other (hwf : s.mem.wf = true) {n : Nat} (hn : ¬ b.isPixelByte n) :
    (s.mem.writeAll (p.cells s.mem)).read n = s.mem.read n :=
  Plan.read_other p s.mem n hwf (by rwa [hp.writes, Buffer.mem_allPixelBytes])

/-- No byte is stored twice. -/
theorem Plan.Fills.writes_nodup {d : Descriptor} (hdst : d.names b) : p.writes.Nodup := by
  rw [hp.writes]
  exact hdst.allPixelBytes_nodup

end

theorem perByte_fills (s d : Buffer) (reads : Nat → Nat → Nat → List Nat)
    (value : Nat → Nat → Nat → Memory → Byte) : (perByte s d reads value).Fills s d where
  kernelReads := rfl
  writes := by
    simp [perByte, Plan.writes, Buffer.byteWrite, List.map_flatMap, Buffer.allPixelBytes, Buffer.pixelBytes,
      List.range'_eq_map_range, Function.comp_def]
  overlaps := rfl
  result := rfl

/-- A command that works byte by byte, on buffers that lie apart: every byte of every destination pixel has its value, and no
other byte and no other state changes (41_resample.md R168). -/
theorem exec_perByte {i : Instr} {s : State} {a b : Buffer} {reads : Nat → Nat → Nat → List Nat}
    {value : Nat → Nat → Nat → Memory → Byte} (hplan : commandPlan i s.latched = .ok (perByte a b reads value))
    (hwf : s.mem.wf = true) (hb : s.breach = Breach.none) (hdst : s.latched.dst.names b) (hapart : a.apart b)
    (hreads : ∀ n ∈ (perByte a b reads value).reads, memOK s.platform .read n = true)
    (hadmits : s.admitsPixels .write b) :
    ∃ m, exec i s = .next (s.ended m) ∧
      (∀ y, y < b.height → ∀ x, x < b.width → ∀ j, j < b.fmt.bpp →
        m.read (b.pixAddr x y + j) = value x y j s.mem) ∧
      ∀ n, ¬ b.isPixelByte n → m.read n = s.mem.read n := by
  have hfills := perByte_fills a b reads value
  refine ⟨_, hfills.exec_ended hplan hb hapart hreads hadmits, fun y hy x hx j hj => ?_,
    fun n hn => hfills.read_other hwf hn⟩
  refine Plan.read_stored _ s.mem (b.byteWrite x y j (value x y j)) hwf (hfills.writes_nodup hdst) ?_
  refine List.mem_map.2 ⟨(x, y, j), List.mem_flatMap.2 ⟨(x, y), (b.mem_pixels _).2 ⟨hx, hy⟩, ?_⟩, rfl⟩
  exact List.mem_map.2 ⟨j, List.mem_range.2 hj, rfl⟩

/-! ### NEAREST -/

/-- The plan of NEAREST between named buffers (41_resample.md R161). -/
def nearestStores (s d : Buffer) : Plan :=
  perByte s d
    (fun x y i => [s.pixAddr (nearestIndex x (factor s.width d.width)) (nearestIndex y (factor s.height d.height)) + i])
    fun x y i m => s.byteRead m (nearestIndex x (factor s.width d.width)) (nearestIndex y (factor s.height d.height)) i

theorem nearestPlan_of_names {l : Operands} {s d : Buffer} (hsrc : l.src.names s) (hdst : l.dst.names d)
    (hfmt : s.fmt = d.fmt) : nearestPlan l = .ok (nearestStores s d) := by
  simp only [nearestPlan, except_bind_eq_ok]
  exact ⟨(s, d), resampleSetup_of_names hsrc hdst hfmt (by simp), rfl⟩

/-- Settles O15: the value of each stored byte is the source byte at the floored positions. -/
theorem nearestCopiesSourcePixels : Obligations.NearestCopiesSourcePixels := by
  intro s a b hwf hb hsrc hdst hfmt hapart sx sy hreads hadmits
  have hplan : commandPlan .resampleNearest s.latched = .ok (nearestStores a b) := nearestPlan_of_names hsrc hdst hfmt
  have hadmitted : ∀ n ∈ (nearestStores a b).reads, memOK s.platform .read n = true := by
    refine reads_perByte fun x y j hx hy hj n hn => ?_
    rw [List.mem_singleton] at hn
    exact hn ▸ hreads y hy x hx j (hfmt ▸ hj)
  exact exec_perByte hplan hwf hb hdst hapart hadmitted hadmits

/-! ### BILINEAR -/

/-- The interpolated value before truncation (41_resample.md R162). -/
def bilinearSum (ax ay : LinearAxis) (p1 p2 p3 p4 : Byte) : F64 :=
  let row (a b : Byte) : F64 := fadd (fmul ax.nearWeight (f64 a.toNat)) (fmul ax.farWeight (f64 b.toNat))
  fadd (fmul ay.nearWeight (row p1 p2)) (fmul ay.farWeight (row p3 p4))

theorem iclamp_eq_max_min (v : Int) {lo hi : Int} (h : lo ≤ hi) : iclamp v lo hi = max lo (min v hi) := by
  unfold iclamp
  split_ifs <;> omega

/-- The stored byte is the truncated value, clamped to a byte (41_resample.md R162). -/
theorem toNat_bilinearByte (ax ay : LinearAxis) (p1 p2 p3 p4 : Byte) :
    ((bilinearByte ax ay p1 p2 p3 p4).toNat : Int) = max 0 (min (ftrunc (bilinearSum ax ay p1 p2 p3 p4)) 255) := by
  have hbyte : bilinearByte ax ay p1 p2 p3 p4 =
      BitVec.ofNat 8 (iclamp (ftrunc (bilinearSum ax ay p1 p2 p3 p4)) 0 255).toNat := rfl
  rw [hbyte, iclamp_eq_max_min _ (by norm_num), BitVec.toNat_ofNat]
  omega

/-- The plan of BILINEAR between named buffers (41_resample.md R162). -/
def bilinearStores (s d : Buffer) : Plan :=
  let ax (x : Nat) : LinearAxis := linearAxis x s.width d.width
  let ay (y : Nat) : LinearAxis := linearAxis y s.height d.height
  perByte s d
    (fun x y i =>
      [ s.pixAddr (ax x).near (ay y).near + i, s.pixAddr (ax x).far (ay y).near + i,
        s.pixAddr (ax x).near (ay y).far + i, s.pixAddr (ax x).far (ay y).far + i ])
    fun x y i m =>
      bilinearByte (ax x) (ay y)
        (s.byteRead m (ax x).near (ay y).near i) (s.byteRead m (ax x).far (ay y).near i)
        (s.byteRead m (ax x).near (ay y).far i) (s.byteRead m (ax x).far (ay y).far i)

theorem bilinearPlan_of_names {l : Operands} {s d : Buffer} (hsrc : l.src.names s) (hdst : l.dst.names d)
    (hfmt : s.fmt = d.fmt) : bilinearPlan l = .ok (bilinearStores s d) := by
  simp only [bilinearPlan, except_bind_eq_ok]
  exact ⟨(s, d), resampleSetup_of_names hsrc hdst hfmt (by simp), rfl⟩

/-- Settles O16: the value of each stored byte is the clamped truncation of `bilinearSum` over the four source bytes. -/
theorem bilinearInterpolatesBytes : Obligations.BilinearInterpolatesBytes := by
  intro s a b hwf hb hsrc hdst hfmt hapart ox oy ox1 oy1 ox2 oy2 hreads hadmits
  have hplan : commandPlan .resampleBilinear s.latched = .ok (bilinearStores a b) := bilinearPlan_of_names hsrc hdst hfmt
  have hadmitted : ∀ n ∈ (bilinearStores a b).reads, memOK s.platform .read n = true := by
    refine reads_perByte fun x y j hx hy hj n hn => ?_
    obtain ⟨h1, h2, h3, h4⟩ := hreads y hy x hx j (hfmt ▸ hj)
    simp only [List.mem_cons, List.not_mem_nil, or_false] at hn
    obtain rfl | rfl | rfl | rfl := hn
    · exact h1
    · exact h2
    · exact h3
    · exact h4
  obtain ⟨m, hexec, hstored, hother⟩ := exec_perByte hplan hwf hb hdst hapart hadmitted hadmits
  refine ⟨m, hexec, fun y hy x hx j hj => ?_, hother⟩
  intro p dx1 dx2 dy1 dy2 r
  rw [hstored y hy x hx j hj]
  exact toNat_bilinearByte _ _ _ _ _ _

/-! ### Positions in the source, and equal sizes -/

/-- Settles O18: the position lies between 0 and the source dimension, and so does its floor. -/
theorem sampleIndexInSource : Obligations.SampleIndexInSource := by
  intro n srcDim dstDim hsrc hsrc' hn hdst
  obtain ⟨hlow, hhigh⟩ := position_bounds hsrc hsrc' hn hdst
  exact ⟨Int.floor_nonneg.2 hlow, Int.le_sub_one_of_lt (Int.floor_lt.2 (by exact_mod_cast hhigh))⟩

@[simp] theorem round64_one : round64 1 = 1 := by simpa [f64] using f64_exact 1 (by norm_num)

/-- At equal sizes the factor is 1 and every position is its index (41_resample.md R161). -/
theorem position_same {n dim : Nat} (hn : n < dim) (hdim : dim ≤ 65535) : position n (factor dim dim) = n := by
  have hne : (dim : ℚ) ≠ 0 := by exact_mod_cast (Nat.zero_lt_of_lt hn).ne'
  rw [position, factor, fdiv, f64_dimension hdim, div_self hne, round64_one, fmul, mul_one, f64_dimension (by omega)]
  exact f64_dimension (by omega)

theorem ffloor_natCast (n : Nat) : ffloor (n : ℚ) = n :=
  Int.floor_natCast (R := ℚ) n

theorem nearestIndex_same {n dim : Nat} (hn : n < dim) (hdim : dim ≤ 65535) : nearestIndex n (factor dim dim) = n := by
  rw [nearestIndex, position_same hn hdim, ffloor_natCast, Int.toNat_natCast]

/-- At equal sizes the near index carries all the weight (41_resample.md R162). -/
theorem linearAxis_same {n dim : Nat} (hn : n < dim) (hdim : dim ≤ 65535) :
    (linearAxis n dim dim).near = n ∧ (linearAxis n dim dim).nearWeight = 1 ∧ (linearAxis n dim dim).farWeight = 0 := by
  simp [linearAxis, position_same hn hdim, ffloor_natCast, fsub, f64_dimension (hn.le.trans hdim)]

/-- A byte is a binary64 value. -/
theorem f64_byte (p : Byte) : f64 p.toNat = (p.toNat : ℚ) := f64_dimension (by omega)

/-- Where the near indices carry all the weight, the interpolated byte is the first one (41_resample.md R162). -/
theorem bilinearByte_near {ax ay : LinearAxis} (hx : ax.nearWeight = 1 ∧ ax.farWeight = 0)
    (hy : ay.nearWeight = 1 ∧ ay.farWeight = 0) (p1 p2 p3 p4 : Byte) : bilinearByte ax ay p1 p2 p3 p4 = p1 := by
  have hround : round64 (p1.toNat : ℚ) = p1.toNat := f64_byte p1
  have hsum : bilinearSum ax ay p1 p2 p3 p4 = p1.toNat := by
    simp [bilinearSum, hx, hy, fadd, fmul, f64_byte, hround]
  have htrunc : ftrunc (p1.toNat : ℚ) = p1.toNat := (if_neg (not_lt.2 (Nat.cast_nonneg _))).trans (ffloor_natCast _)
  have hbyte := toNat_bilinearByte ax ay p1 p2 p3 p4
  rw [hsum, htrunc] at hbyte
  exact BitVec.eq_of_toNat_eq (by omega)

/-- Every read of a two-buffer command that works on pixels is admitted where the source's pixels are (20_memory.md R71). -/
theorem State.admitsPixels.reads {s : State} {i : Instr} {p : Plan} {a : Buffer} (h : s.admitsPixels .read a)
    (hplan : commandPlan i s.latched = .ok p) (hi : hasTwoBuffers i = true) (hcopy : i ≠ .copy)
    (hsrc : s.latched.src.names a) : ∀ n ∈ p.reads, memOK s.platform .read n = true := by
  intro n hn
  obtain ⟨a', d, hjoins⟩ := commandPlan_joins hi hplan
  obtain rfl := hjoins.src.unique hsrc
  have hpixel := hjoins.reads n hn
  rw [if_neg hcopy] at hpixel
  obtain ⟨y, hy, x, hx, j, hj, rfl⟩ := hpixel
  exact h y hy x hx j hj

/-- Settles O19: every index is its own source index, and BILINEAR's weights are 1 and 0. -/
theorem sameSizeResampleIsIdentity : Obligations.SameSizeResampleIsIdentity := by
  intro s a b i hi hwf hb hsrc hdst hfmt hwidth hheight hapart hadmitsRead hadmitsWrite
  obtain ⟨⟨-, hw⟩, -, hh⟩ := hdst.dimensions
  obtain rfl | rfl := hi
  · have hplan : commandPlan .resampleNearest s.latched = .ok (nearestStores a b) := nearestPlan_of_names hsrc hdst hfmt
    have hreads := hadmitsRead.reads hplan rfl (by simp) hsrc
    obtain ⟨m, hexec, hstored, hother⟩ := exec_perByte hplan hwf hb hdst hapart hreads hadmitsWrite
    refine ⟨m, hexec, fun y hy x hx j hj => ?_, hother⟩
    rw [hstored y hy x hx j hj, hwidth, hheight, nearestIndex_same hx hw, nearestIndex_same hy hh, Buffer.byteRead]
  · have hplan : commandPlan .resampleBilinear s.latched = .ok (bilinearStores a b) :=
      bilinearPlan_of_names hsrc hdst hfmt
    have hreads := hadmitsRead.reads hplan rfl (by simp) hsrc
    obtain ⟨m, hexec, hstored, hother⟩ := exec_perByte hplan hwf hb hdst hapart hreads hadmitsWrite
    refine ⟨m, hexec, fun y hy x hx j hj => ?_, hother⟩
    obtain ⟨hxnear, hxweights⟩ := linearAxis_same hx hw
    obtain ⟨hynear, hyweights⟩ := linearAxis_same hy hh
    rw [hstored y hy x hx j hj, hwidth, hheight, bilinearByte_near hxweights hyweights, hxnear, hynear, Buffer.byteRead]

end Sys2Proof.Machine
end

section
/-! A bilinear byte stays near the range of its source bytes (41_resample.md R163): the weights of an axis add up to 1 but for
a rounding, and the roundings of the interpolation move its value by far less than 1. -/

namespace Sys2Proof.Machine

/-! ### Weights -/

/-- A rounding does not pass a representable value (00_scope.md R9). -/
theorem round64_le_of_isBinary64 {q r : ℚ} (hr : IsBinary64 r) (hq : q ≤ r) : round64 q ≤ r := by
  obtain ⟨-, hnearest, -⟩ := roundingIsNearestEven q
  have hle := hnearest r hr
  rw [abs_of_nonneg (sub_nonneg.2 hq)] at hle
  linarith [le_abs_self (round64 q - q)]

theorem isBinary64_one : IsBinary64 1 := ⟨1, 0, by norm_num, by norm_num, by norm_num⟩

/-- A rounding keeps the unit interval (00_scope.md R9). -/
theorem round64_unit {q : ℚ} (h0 : 0 ≤ q) (h1 : q ≤ 1) : 0 ≤ round64 q ∧ round64 q ≤ 1 :=
  ⟨round64_nonneg h0, round64_le_of_isBinary64 isBinary64_one h1⟩

/-- Two weights that interpolate: neither is negative, and they add up to 1 but for one rounding (41_resample.md R162). -/
structure IsWeighting (u v : ℚ) : Prop where
  left_nonneg : 0 ≤ u
  right_nonneg : 0 ≤ v
  sum_near_one : |u + v - 1| ≤ 1 / 2 ^ 33

/-- The weights of an axis are a weighting (41_resample.md R162). -/
theorem linearAxis_isWeighting {n srcDim dstDim : Nat} (hsrc : 0 < srcDim) (hsrc' : srcDim ≤ 65535) (hn : n < dstDim)
    (hdst : dstDim ≤ 65535) :
    IsWeighting (linearAxis n srcDim dstDim).nearWeight (linearAxis n srcDim dstDim).farWeight := by
  obtain ⟨hlow, hhigh⟩ := sampleIndexInSource n srcDim dstDim hsrc hsrc' hn hdst
  simp only [linearAxis, fsub]
  generalize position n (factor srcDim dstDim) = o at *
  have hfloor : f64 (ffloor o) = ((ffloor o : Int) : ℚ) := f64_exact _ (abs_lt.2 ⟨by omega, by omega⟩)
  have hfrac0 : ((ffloor o : Int) : ℚ) ≤ o := Int.floor_le o
  have hfrac1 : o < ((ffloor o : Int) : ℚ) + 1 := Int.lt_floor_add_one o
  rw [hfloor]
  obtain ⟨hd0, hd1⟩ := round64_unit (q := o - (ffloor o : Int)) (by linarith) (by linarith)
  generalize round64 (o - (ffloor o : Int)) = d at *
  have herr := round64_absolute_error (q := 1 - d) (abs_lt.2 ⟨by linarith, by linarith⟩)
  have hsum : round64 (1 - d) + d - 1 = round64 (1 - d) - (1 - d) := by ring
  exact ⟨round64_nonneg (by linarith), hd0, hsum ▸ herr⟩

/-! ### Interpolation -/

/-- Interpolating between two values of a range, with its three roundings, leaves the range by less than 1/2^24. -/
theorem IsWeighting.interpolate_between {u v a b lo hi : ℚ} (h : IsWeighting u v) (hlo : -1 ≤ lo) (hhi : hi ≤ 256)
    (ha : lo ≤ a ∧ a ≤ hi) (hb : lo ≤ b ∧ b ≤ hi) :
    lo - 1 / 2 ^ 24 ≤ fadd (fmul u a) (fmul v b) ∧ fadd (fmul u a) (fmul v b) ≤ hi + 1 / 2 ^ 24 := by
  obtain ⟨hu, hv, hsum⟩ := h
  obtain ⟨hsum0, hsum1⟩ := abs_le.1 hsum
  obtain ⟨ha0, ha1⟩ := ha
  obtain ⟨hb0, hb1⟩ := hb
  have hlow : lo - 256 / 2 ^ 33 ≤ u * a + v * b := by nlinarith
  have hhigh : u * a + v * b ≤ hi + 256 / 2 ^ 33 := by nlinarith
  have hproduct {w c : ℚ} (hw : 0 ≤ w) (hw2 : w ≤ 2) (hc0 : -1 ≤ c) (hc1 : c ≤ 256) : |w * c| < 2 ^ 20 :=
    abs_lt.2 ⟨by nlinarith, by nlinarith⟩
  have hua := abs_le.1 (round64_absolute_error (hproduct (w := u) (c := a) hu (by linarith) (by linarith) (by linarith)))
  have hvb := abs_le.1 (round64_absolute_error (hproduct (w := v) (c := b) hv (by linarith) (by linarith) (by linarith)))
  have hadd := abs_le.1 (round64_absolute_error (q := round64 (u * a) + round64 (v * b))
    (abs_lt.2 ⟨by linarith [hua.1, hvb.1], by linarith [hua.2, hvb.2]⟩))
  exact ⟨by simp only [fadd, fmul]; linarith [hadd.1, hua.1, hvb.1],
    by simp only [fadd, fmul]; linarith [hadd.2, hua.2, hvb.2]⟩

/-- Two interpolations in a row leave the range of the four bytes by less than 1/2^20. -/
theorem bilinearSum_between {ax ay : LinearAxis} (hx : IsWeighting ax.nearWeight ax.farWeight)
    (hy : IsWeighting ay.nearWeight ay.farWeight) {p1 p2 p3 p4 : Byte} {lo hi : Nat} (hhi : hi ≤ 255)
    (hrange : ∀ p ∈ [p1, p2, p3, p4], lo ≤ p.toNat ∧ p.toNat ≤ hi) :
    lo - 1 / 2 ^ 20 ≤ bilinearSum ax ay p1 p2 p3 p4 ∧ bilinearSum ax ay p1 p2 p3 p4 ≤ hi + 1 / 2 ^ 20 := by
  have hlo0 : (0 : ℚ) ≤ lo := Nat.cast_nonneg lo
  have hhi255 : (hi : ℚ) ≤ 255 := by exact_mod_cast hhi
  have hbyte (p : Byte) (hp : p ∈ [p1, p2, p3, p4]) : (lo : ℚ) ≤ f64 p.toNat ∧ f64 p.toNat ≤ hi := by
    rw [f64_byte]
    exact_mod_cast hrange p hp
  have hrow12 := hx.interpolate_between (by linarith) (by linarith) (hbyte p1 (by simp)) (hbyte p2 (by simp))
  have hrow34 := hx.interpolate_between (by linarith) (by linarith) (hbyte p3 (by simp)) (hbyte p4 (by simp))
  obtain ⟨hlow, hhigh⟩ := hy.interpolate_between (by linarith) (by linarith) hrow12 hrow34
  exact ⟨le_trans (by linarith) hlow, hhigh.trans (by linarith)⟩

/-! ### Truncation -/

/-- The truncation of a value is not below an integer that the value is not below. -/
theorem le_ftrunc {q : ℚ} {k : Int} (h : k ≤ q) : k ≤ ftrunc q := by
  unfold ftrunc
  split
  case isTrue hneg =>
    have hfloor : (-q).floor ≤ -k := by
      exact_mod_cast (Int.floor_le (-q)).trans (neg_le_neg h)
    omega
  case isFalse => exact Int.le_floor.2 h

/-- Truncation of a value below a natural number's successor is at most that number. -/
theorem ftrunc_le {q : ℚ} {m : Nat} (h : q < m + 1) : ftrunc q ≤ m := by
  by_cases h0 : 0 ≤ q
  · exact (ftrunc_between h0 h).2
  · have hneg : q < 0 := not_le.1 h0
    have hfloor : 0 ≤ (-q).floor := show 0 ≤ ⌊-q⌋ from Int.floor_nonneg.2 (by linarith)
    rw [ftrunc, if_pos hneg]
    omega

/-- Settles O20: the value leaves the range of the four bytes by far less than 1, so truncation takes it at most one below. -/
theorem bilinearByteNearConvex : Obligations.BilinearByteNearConvex := by
  intro x y w h w' h' p1 p2 p3 p4 hw hw65535 hh hh65535 hx hw' hy hh' r
  have hr : (r : Int) = _ := toNat_bilinearByte (linearAxis x w w') (linearAxis y h h') p1 p2 p3 p4
  set lo := min (min p1.toNat p2.toNat) (min p3.toNat p4.toNat) with hlo
  set hi := max (max p1.toNat p2.toNat) (max p3.toNat p4.toNat) with hhi
  have hrange : ∀ p ∈ [p1, p2, p3, p4], lo ≤ p.toNat ∧ p.toNat ≤ hi := by
    simp only [List.forall_mem_cons, List.not_mem_nil, IsEmpty.forall_iff, implies_true, and_true]
    omega
  obtain ⟨hlow, hhigh⟩ := bilinearSum_between (linearAxis_isWeighting hw hw65535 hx hw')
    (linearAxis_isWeighting hh hh65535 hy hh') (by omega) hrange
  have htrunc0 : (lo : Int) - 1 ≤ ftrunc _ := le_ftrunc (le_trans (by push_cast; linarith) hlow)
  have htrunc1 : ftrunc _ ≤ (hi : Int) := ftrunc_le (hhigh.trans_lt (by linarith))
  omega

end Sys2Proof.Machine
end

section
/-! RESAMPLE.BICUBIC where its checks pass and no access is refused (41_resample.md R164, R165, R167, R168). -/

namespace Sys2Proof.Machine

/-! ### The value of a lane -/

theorem fclamp_eq_max_min (v : F64) {lo hi : F64} (h : lo ≤ hi) : fclamp v lo hi = max lo (min v hi) := by
  unfold fclamp
  split_ifs with hlow hhigh
  · rw [min_eq_left (hlow.le.trans h), max_eq_left hlow.le]
  · rw [min_eq_right hhigh.le, max_eq_right h]
  · rw [min_eq_left (not_lt.1 hhigh), max_eq_right (not_lt.1 hlow)]

/-- The lane is the truncated clamp of the sum, and a byte (41_resample.md R165). -/
theorem cubicLane_eq (ax ay : CubicAxis) (srcWidth srcHeight : Nat) (lane : Nat → Nat → Nat) :
    (cubicLane ax ay srcWidth srcHeight lane : Int) =
      ftrunc (max 0 (min (cubicSum ax ay srcWidth srcHeight lane) 255)) ∧
    cubicLane ax ay srcWidth srcHeight lane ≤ 255 := by
  rw [cubicLane, fclamp_eq_max_min _ (by norm_num)]
  generalize cubicSum ax ay srcWidth srcHeight lane = q
  have hle : max 0 (min q 255) ≤ 255 := max_le (by norm_num) (min_le_right _ _)
  obtain ⟨h0, h255⟩ := ftrunc_between (q := max 0 (min q 255)) (m := 255) (le_max_left _ _)
    (hle.trans_lt (by norm_num))
  omega

/-- The clamped index of an offset, as R165 writes it (41_resample.md R165). -/
theorem cubicIndex_eq (a : CubicAxis) (n : Int) {srcDim : Nat} (h : 0 < srcDim) :
    cubicIndex a n srcDim = (max 0 (min (a.index + n) ((srcDim : Int) - 1))).toNat := by
  rw [cubicIndex, iclamp_eq_max_min _ (by omega)]

/-- The kernel's two parts, with the absolute value (41_resample.md R164). -/
theorem cubicKernel_eq (t : F64) :
    cubicKernel t =
      if |t| ≤ 1 then fadd (fmul (fmul (fsub (fmul (3 / 2) |t|) (5 / 2)) |t|) |t|) 1
      else if |t| < 2 then fadd (fmul (fsub (fmul (fadd (fmul (-1 / 2) |t|) (5 / 2)) |t|) 4) |t|) 2
      else 0 := by
  rw [← magnitude_eq_abs]
  rfl

/-! ### The plan -/

/-- The lanes BICUBIC goes over: position (x, y), lane k (41_resample.md R165). -/
def bicubicCells (s d : Buffer) : List (Nat × Nat × Nat) :=
  d.pixels.flatMap fun p => (List.range s.fmt.nlanes).map fun k => (p.1, p.2, k)

/-- The lane BICUBIC computes for lane k of position (x, y) (41_resample.md R165). -/
def bicubicValue (s d : Buffer) (x y k : Nat) (m : Memory) : Nat :=
  cubicLane (cubicAxis x s.width d.width) (cubicAxis y s.height d.height) s.width s.height
    fun sx sy => s.laneRead m sx sy k

/-- The plan of BICUBIC between named buffers (41_resample.md R165). -/
def bicubicStores (s d : Buffer) : Plan :=
  { Plan.empty with
    reads := (bicubicCells s d).flatMap fun c => cubicOffsets.flatMap fun n => cubicOffsets.flatMap fun m =>
      List.range' (s.laneAddr (cubicIndex (cubicAxis c.1 s.width d.width) m s.width)
        (cubicIndex (cubicAxis c.2.1 s.height d.height) n s.height) c.2.2) s.fmt.laneBytes
    stores := (bicubicCells s d).flatMap fun c => d.laneWrite c.1 c.2.1 c.2.2 (bicubicValue s d c.1 c.2.1 c.2.2)
    overlaps := !(s.overlap d).isEmpty
    overlapped := s.overlap d }

theorem bicubicPlan_of_names {l : Operands} {s d : Buffer} (hsrc : l.src.names s) (hdst : l.dst.names d)
    (hfmt : s.fmt = d.fmt) (hlanes : s.fmt.lw = 8) : bicubicPlan l = .ok (bicubicStores s d) := by
  simp only [bicubicPlan, except_bind_eq_ok]
  exact ⟨(s, d), resampleSetup_of_names hsrc hdst hfmt (by omega), rfl⟩

theorem mem_bicubicCells (s d : Buffer) (x y k : Nat) :
    (x, y, k) ∈ bicubicCells s d ↔ x < d.width ∧ y < d.height ∧ k < s.fmt.nlanes := by
  simp [bicubicCells, Buffer.mem_pixels, and_assoc]

theorem bicubicStores_fills {s d : Buffer} (hfmt : s.fmt = d.fmt) : (bicubicStores s d).Fills s d where
  kernelReads := rfl
  writes := by
    simp only [bicubicStores, bicubicCells, Plan.writes, List.flatMap_assoc, List.flatMap_map, hfmt]
    rw [List.map_flatMap]
    exact List.flatMap_congr fun p _ => d.addrs_writeLanes p.1 p.2 fun k => bicubicValue s d p.1 p.2 k
  overlaps := rfl
  result := rfl

/-- Every lane of the destination reads back as BICUBIC computed it (41_resample.md R165, R167). -/
theorem bicubicStores_laneRead {s d : Buffer} {desc : Descriptor} (hdst : desc.names d) (hfmt : s.fmt = d.fmt)
    (hlanes : s.fmt.lw = 8) {m : Memory} (hwf : m.wf = true) {x y k : Nat} (hx : x < d.width) (hy : y < d.height)
    (hk : k < d.fmt.nlanes) :
    d.laneRead (m.writeAll ((bicubicStores s d).cells m)) x y k = bicubicValue s d x y k m := by
  have hmax : d.fmt.lanemax = 255 := by
    rw [Format.lanemax, ← hfmt, hlanes]
    rfl
  refine Plan.laneRead_stored _ hwf ((bicubicStores_fills hfmt).writes_nodup hdst) (fun c hc => ?_) ?_
  · exact List.mem_flatMap.2 ⟨(x, y, k), (mem_bicubicCells s d x y k).2 ⟨hx, hy, hfmt ▸ hk⟩, hc⟩
  · rw [hmax]
    exact (cubicLane_eq _ _ _ _ _).2

/-- What holds of every byte of every sample of every destination lane holds of every read (41_resample.md R165). -/
theorem reads_bicubicStores {s d : Buffer} {P : Nat → Prop}
    (h : ∀ x y k, x < d.width → y < d.height → k < s.fmt.nlanes → ∀ n ∈ cubicOffsets, ∀ m ∈ cubicOffsets,
      ∀ j, j < s.fmt.laneBytes →
        P (s.laneAddr (cubicIndex (cubicAxis x s.width d.width) m s.width)
          (cubicIndex (cubicAxis y s.height d.height) n s.height) k + j)) :
    ∀ a ∈ (bicubicStores s d).reads, P a := by
  intro a ha
  simp only [bicubicStores, List.mem_flatMap, List.mem_range'] at ha
  obtain ⟨⟨x, y, k⟩, hc, n, hn, m, hm, j, hj, rfl⟩ := ha
  obtain ⟨hx, hy, hk⟩ := (mem_bicubicCells s d x y k).1 hc
  rw [Nat.one_mul]
  exact h x y k hx hy hk n hn m hm j hj

/-- Settles O17: the sixteen terms of `cubicSum` are the rule's, in its order, and each lane is stored once. -/
theorem bicubicInterpolatesLanes : Obligations.BicubicInterpolatesLanes := by
  intro s a b hwf hb hsrc hdst hfmt hlanes hapart ox oy sx sy hreads hadmits
  obtain ⟨⟨hw, -⟩, hh, -⟩ := hsrc.dimensions
  have hplan : commandPlan .resampleBicubic s.latched = .ok (bicubicStores a b) :=
    bicubicPlan_of_names hsrc hdst hfmt hlanes
  have hfills := bicubicStores_fills (s := a) (d := b) hfmt
  have hadmitted : ∀ n ∈ (bicubicStores a b).reads, memOK s.platform .read n = true := by
    refine reads_bicubicStores fun x y k hx hy hk n hn m hm j hj => ?_
    obtain rfl : j = 0 := by
      rw [Format.lw] at hlanes
      omega
    rw [cubicIndex_eq _ _ hw, cubicIndex_eq _ _ hh]
    exact hreads y hy x hx k hk n hn m hm
  refine ⟨_, hfills.exec_ended hplan hb hapart hadmitted hadmits, fun y hy x hx l hl => ?_,
    fun n hn => hfills.read_other hwf hn⟩
  intro K dx dy term row acc
  have hsum : cubicSum (cubicAxis x a.width b.width) (cubicAxis y a.height b.height) a.width a.height
      (fun sx sy => a.laneRead s.mem sx sy l) = acc := by
    simp only [cubicSum, cubicOffsets, List.foldl, cubicKernel_eq, cubicIndex_eq _ _ hw, cubicIndex_eq _ _ hh]
    rfl
  rw [bicubicStores_laneRead hdst hfmt hlanes hwf hx hy hl, ← hsum]
  exact (cubicLane_eq _ _ _ _ _).1

end Sys2Proof.Machine
end

section
/-! The operand checks of CONVOLVE in their order (42_convolution.md R202). -/

namespace Sys2Proof.Machine

/-- The kernel's checks: its side length, its extent, an explicit zero divisor (42_convolution.md R202). -/
theorem checkKernel_checks (l : Operands) (k : Nat) (divAuto : Bool) :
    ChecksInOrder (checkKernel l k divAuto)
      [ (decide (k % 2 = 0) || decide (k < 3) || decide (99 < k), .invalidKernel),
        (decide (2 ^ 32 < l.kernelBase.toNat + 4 * k * k), .invalidKernel),
        (!divAuto && decide (l.divisor = 0), .invalidDivisor) ] :=
  (raiseIf_checks _ _).bind fun _ _ => (raiseIf_checks _ _).bind fun _ _ => raiseIf_checks _ _

/-- The kernel's checks stand between the formats and the shapes, that of equal shapes after them (42_convolution.md R202). -/
theorem convPlan_checks (l : Operands) (k : Nat) (dynDiv procAlpha divAuto : Bool) :
    ChecksInOrder (convPlan l k dynDiv procAlpha divAuto)
      [ (l.src.badFormat, .unsupportedFormat), (l.dst.badFormat, .unsupportedFormat),
        (decide (k % 2 = 0) || decide (k < 3) || decide (99 < k), .invalidKernel),
        (decide (2 ^ 32 < l.kernelBase.toNat + 4 * k * k), .invalidKernel),
        (!divAuto && decide (l.divisor = 0), .invalidDivisor),
        (l.src.badShape, .sizeMismatch), (l.dst.badShape, .sizeMismatch),
        (decide (l.src.size ≠ l.dst.size) || decide (l.src.fmt ≠ l.dst.fmt), .sizeMismatch) ] := by
  refine (checkBoth_checks fun _ _ => checkKernel_checks l k divAuto).bind fun ⟨s, d⟩ hboth => ?_
  obtain ⟨hsrc, hdst, -⟩ := checkBoth_eq_ok hboth
  rw [← hsrc.not_sameShape hdst]
  exact (raiseIf_checks _ _).bind_ok fun _ => rfl

/-- Settles O32: CONVOLVE makes the checks of `convPlan_checks` and no others. -/
theorem convolveChecksOperands : Obligations.ConvolveChecksOperands := by
  intro s e k dynDiv procAlpha divAuto
  exact exec_of_checks (i := .convolve k dynDiv procAlpha divAuto)
    (convPlan_checks s.latched k dynDiv procAlpha divAuto)

end Sys2Proof.Machine
end

section
/-! The totals of a convolution window as sums over its cells (42_convolution.md R201, R203, R204), and the lane they give. -/

namespace Sys2Proof.Machine

/-! ### The cells of a window -/

/-- A cell is skipped exactly where it lies outside the image (42_convolution.md R203). -/
theorem windowCell_eq_ite (b : Buffer) (size x y i j : Nat) :
    windowCell b size x y i j =
      if inImage b (size / 2) x y i j then
        some (((x : Int) + j - (size / 2 : Nat)).toNat, ((y : Int) + i - (size / 2 : Nat)).toNat)
      else none := by
  simp only [windowCell]
  generalize size / 2 = r
  by_cases hin : inImage b r x y i j
  · rw [if_neg (by omega), if_pos hin, Option.some.injEq, Prod.mk.injEq]
    omega
  · rw [if_pos (by omega), if_neg hin]

/-- What a cell adds to the weighted sum (42_convolution.md R203). -/
def cellProduct (b : Buffer) (m : Memory) (k : Nat) (wt : Nat → Nat → Int) (x y l : Nat) (c : Nat × Nat) : Int :=
  if inImage b (k / 2) x y c.1 c.2 then wt c.1 c.2 * cellLane b m (k / 2) x y c.1 c.2 l else 0

/-- What a cell adds to the sum of in-bounds weights (42_convolution.md R204). -/
def cellWeight (b : Buffer) (k : Nat) (wt : Nat → Nat → Int) (x y : Nat) (c : Nat × Nat) : Int :=
  if inImage b (k / 2) x y c.1 c.2 then wt c.1 c.2 else 0

/-- The running totals are the sums over the cells so far, and tell whether one of them was outside. -/
theorem windowTotals_eq (b : Buffer) (k : Kernel) (m : Memory) (x y l : Nat) (cells : List (Nat × Nat)) :
    windowTotals b k m x y l cells =
      { sum := (cells.map (cellProduct b m k.size k.weight x y l)).sum
        wsum := (cells.map (cellWeight b k.size k.weight x y)).sum
        clipped := cells.any fun c => !decide (inImage b (k.size / 2) x y c.1 c.2) } := by
  induction cells using List.reverseRecOn with
  | nil => simp
  | append_singleton cells c ih =>
    rw [windowTotals_concat, windowCell_eq_ite, ih]
    simp only [List.map_append, List.map_singleton, List.sum_append, List.sum_singleton, List.any_append, List.any_cons,
      List.any_nil, Bool.or_false]
    by_cases hin : inImage b (k.size / 2) x y c.1 c.2
    · simp only [cellProduct, cellWeight, if_pos hin, decide_eq_true hin, Bool.not_true, Bool.or_false]
      rfl
    · simp only [cellProduct, cellWeight, if_neg hin, decide_eq_false hin, Bool.not_false, Bool.or_true, add_zero]

/-- A sum over the cells of a kernel, row by row. -/
theorem sum_kernelCells (size : Nat) (f : Nat × Nat → Int) :
    ((kernelCells size).map f).sum = ∑ i ∈ Finset.range size, ∑ j ∈ Finset.range size, f (i, j) := by
  have hrange (g : Nat → Int) : ((List.range size).map g).sum = ∑ i ∈ Finset.range size, g i := rfl
  simp only [kernelCells, List.flatMap_def, List.map_flatten, List.sum_flatten, List.map_map, Function.comp_def, hrange]

/-- The totals of a whole window (42_convolution.md R203, R204). -/
theorem windowSum_eq (b : Buffer) (k : Kernel) (m : Memory) (x y l : Nat) :
    windowSum b k m x y l =
      { sum := cellSum b m k.size k.weight x y l
        wsum := cellWeights b k.size k.weight x y
        clipped := decide (clippedWindow b k.size x y) } := by
  have hclipped : ((kernelCells k.size).any fun c => !decide (inImage b (k.size / 2) x y c.1 c.2)) =
      decide (clippedWindow b k.size x y) := by
    rw [Bool.eq_iff_iff]
    simp only [List.any_eq_true, mem_kernelCells, Prod.exists, and_assoc, exists_and_left, Bool.not_eq_true',
      decide_eq_false_iff_not, decide_eq_true_eq]
  rw [windowSum, windowTotals_eq, sum_kernelCells, sum_kernelCells, hclipped]
  rfl

theorem windowDivisor_windowSum (b : Buffer) (k : Kernel) (m : Memory) (x y l : Nat) :
    windowDivisor k (windowSum b k m x y l) =
      if clippedWindow b k.size x y ∧ k.dynDiv = true then cellWeights b k.size k.weight x y else k.divisor := by
  simp only [windowSum_eq, windowDivisor, Bool.and_eq_true, decide_eq_true_eq]

/-! ### The divisor -/

theorem weightTotal_eq_sum (size : Nat) (wt : Nat → Nat → Int) :
    weightTotal size wt = ((kernelCells size).map fun c => wt c.1 c.2).sum := by
  rw [weightTotal, List.sum_eq_foldl, List.foldl_map]

theorem configuredDivisor_eq (size : Nat) (wt : Nat → Nat → Int) (divAuto : Bool) (divisor : Word) :
    configuredDivisor size wt divAuto divisor = chosenDivisor size wt divAuto divisor := by
  simp only [configuredDivisor, chosenDivisor, weightTotal_eq_sum, sum_kernelCells]

/-! ### The lane -/

/-- The division, the threshold and the clamp of R203, on the divisor that R204 chooses. -/
theorem filteredLane_eq (b : Buffer) (m : Memory) (k : Nat) (wt : Nat → Nat → Int) (cdiv thr : Int) (dynDiv : Bool)
    (x y l : Nat) :
    filteredLane b m k wt cdiv thr dynDiv x y l =
      max 0 (min (normalise (cellSum b m k wt x y l)
        (if clippedWindow b k x y ∧ dynDiv = true then cellWeights b k wt x y else cdiv) + thr) b.fmt.lanemax) := rfl

/-- The lane of R203: alpha without PROC_ALPHA is copied, every other lane is filtered. -/
theorem convolveLane_eq_ite (b : Buffer) (k : Kernel) (m : Memory) (x y l : Nat) :
    (convolveLane b k m x y l : Int) =
      if b.fmt.isAlpha l = true ∧ k.procAlpha = false then (b.laneRead m x y l : Int)
      else filteredLane b m k.size k.weight k.divisor k.threshold k.dynDiv x y l := by
  by_cases hcopied : b.fmt.isAlpha l = true ∧ k.procAlpha = false
  · rw [if_pos hcopied, convolveLane, if_pos (by simp [hcopied])]
  · have hsum : (windowSum b k m x y l).sum = cellSum b m k.size k.weight x y l := by rw [windowSum_eq]
    rw [if_neg hcopied, convolveLane, if_neg (by simpa using hcopied), filteredLane_eq]
    simp only [windowDivisor_windowSum, hsum, iclamp_eq_max_min _ (Int.natCast_nonneg _)]
    exact Int.toNat_of_nonneg (le_max_left _ _)

/-- What a convolution writes is a lane value (42_convolution.md R203). -/
theorem convolveLane_le (b : Buffer) (k : Kernel) (m : Memory) (x y l : Nat) :
    convolveLane b k m x y l ≤ b.fmt.lanemax := by
  have hvalue := convolveLane_eq_ite b k m x y l
  have hlane := b.laneRead_le_lanemax m x y l
  rw [filteredLane_eq] at hvalue
  split at hvalue <;> omega

end Sys2Proof.Machine
end

section
/-! What the dynamic divisor changes (42_convolution.md R206), and convolution of a uniform lane (R207). -/

namespace Sys2Proof.Machine

/-- An unclipped window is divided by the configured divisor, whatever DYN_DIV is (42_convolution.md R206). -/
theorem filteredLane_of_unclipped {b : Buffer} {k x y : Nat} (h : ¬ clippedWindow b k x y) (m : Memory)
    (wt : Nat → Nat → Int) (cdiv thr : Int) (dynDiv : Bool) (l : Nat) :
    filteredLane b m k wt cdiv thr dynDiv x y l =
      max 0 (min (normalise (cellSum b m k wt x y l) cdiv + thr) b.fmt.lanemax) := by
  rw [filteredLane_eq, if_neg fun hdynamic => h hdynamic.1]

/-- Settles O24: an unclipped window has the configured divisor, and a copied lane has none. -/
theorem dynamicDivisorOnlyWhereClipped : Obligations.DynamicDivisorOnlyWhereClipped := by
  intro b k m x y l
  refine ⟨fun hne => ?_, fun hunclipped => ?_⟩
  · by_contra hunclipped
    refine hne (Int.ofNat_inj.1 ?_)
    rw [convolveLane_eq_ite, convolveLane_eq_ite, filteredLane_of_unclipped hunclipped,
      filteredLane_of_unclipped hunclipped]
  · rw [windowDivisor_windowSum, if_neg fun hdynamic => hunclipped hdynamic.1]

/-! ### Uniform lanes -/

theorem cellWeights_of_unclipped {b : Buffer} {k x y : Nat} (h : ¬ clippedWindow b k x y) (wt : Nat → Nat → Int) :
    cellWeights b k wt x y = ∑ i ∈ Finset.range k, ∑ j ∈ Finset.range k, wt i j := by
  refine Finset.sum_congr rfl fun i hi => Finset.sum_congr rfl fun j hj => if_pos ?_
  by_contra hout
  exact h ⟨i, Finset.mem_range.1 hi, j, Finset.mem_range.1 hj, hout⟩

section
variable {b : Buffer} {m : Memory} {l v : Nat}
  (huniform : ∀ x, x < b.width → ∀ y, y < b.height → b.laneRead m x y l = v)
include huniform

/-- On a uniform lane the weighted sum is its value times the weights in the image. -/
theorem cellSum_of_uniform (k : Nat) (wt : Nat → Nat → Int) (x y : Nat) :
    cellSum b m k wt x y l = cellWeights b k wt x y * v := by
  simp only [cellSum, cellWeights, Finset.sum_mul, ite_mul, zero_mul]
  refine Finset.sum_congr rfl fun i _ => Finset.sum_congr rfl fun j _ => ite_congr rfl (fun hin => ?_) fun _ => rfl
  rw [cellLane, huniform _ (by omega) _ (by omega)]

/-- Unclipped windows of a uniform lane give one value (42_convolution.md R207). -/
theorem filteredLane_uniform_unclipped {k x y x' y' : Nat} (h : ¬ clippedWindow b k x y)
    (h' : ¬ clippedWindow b k x' y') (wt : Nat → Nat → Int) (cdiv thr : Int) (dynDiv : Bool) :
    filteredLane b m k wt cdiv thr dynDiv x y l = filteredLane b m k wt cdiv thr dynDiv x' y' l := by
  rw [filteredLane_of_unclipped h, filteredLane_of_unclipped h', cellSum_of_uniform huniform, cellSum_of_uniform huniform,
    cellWeights_of_unclipped h, cellWeights_of_unclipped h']

/-- With the dynamic divisor and the default divisor, a window of a uniform lane is divided by its own in-bounds weights,
clipped or not (42_convolution.md R201, R204, R207). -/
theorem filteredLane_uniform_dynamic {k x y : Nat} {wt : Nat → Nat → Int} (hweights : cellWeights b k wt x y ≠ 0)
    (hv : v ≤ b.fmt.lanemax) : filteredLane b m k wt (chosenDivisor k wt true 0) 0 true x y l = v := by
  have hdivisor : (if clippedWindow b k x y ∧ true = true then cellWeights b k wt x y else chosenDivisor k wt true 0) =
      cellWeights b k wt x y := by
    split_ifs with hclipped
    · rfl
    · have htotal := cellWeights_of_unclipped (fun h => hclipped ⟨h, rfl⟩) wt
      rw [htotal] at hweights ⊢
      simp [chosenDivisor, hweights]
  rw [filteredLane_eq, hdivisor, cellSum_of_uniform huniform, normalise, if_neg hweights,
    Int.mul_tdiv_cancel_left _ hweights]
  omega

end

/-- Settles O25: on a uniform lane the weighted sum is the lane's value times the in-bounds weights. -/
theorem uniformImageConvolution : Obligations.UniformImageConvolution := by
  intro b k m l v huniform
  refine ⟨fun x y x' y' hx hy hx' hy' h h' => ?_, fun hdyn hthr hdiv hweights x hx y hy => ?_⟩
  · refine Int.ofNat_inj.1 ?_
    rw [convolveLane_eq_ite, convolveLane_eq_ite, huniform x hx y hy, huniform x' hx' y' hy',
      filteredLane_uniform_unclipped huniform h h']
  · have hv : v ≤ b.fmt.lanemax := huniform x hx y hy ▸ b.laneRead_le_lanemax m x y l
    refine Int.ofNat_inj.1 ?_
    rw [convolveLane_eq_ite, huniform x hx y hy, hdyn, hthr, hdiv,
      filteredLane_uniform_dynamic huniform (hweights x hx y hy) hv, ite_self]

end Sys2Proof.Machine
end

section
/-! The accumulator of a convolution (42_convolution.md R205): each cell adds a bounded amount, and there are at most 99 * 99
of them. -/

namespace Sys2Proof.Machine

theorem abs_toInt_le (w : Word) : |w.toInt| ≤ 2 ^ 31 := by
  rw [abs_le]
  have hlow := w.le_toInt
  have hhigh := w.toInt_lt
  omega

theorem abs_kernelWeight_le (base k : Nat) (m : Memory) (i j : Nat) : |kernelWeight base k m i j| ≤ 2 ^ 31 :=
  abs_toInt_le _

/-- A weight times a lane (42_convolution.md R205). -/
theorem abs_mul_laneRead_le {w : Int} (hw : |w| ≤ 2 ^ 31) (b : Buffer) (m : Memory) (x y l : Nat) :
    |w * (b.laneRead m x y l : Int)| ≤ 2 ^ 31 * 65535 := by
  have hlane := b.laneRead_lt m x y l
  rw [abs_mul, Nat.abs_cast]
  exact mul_le_mul hw (by omega) (Int.natCast_nonneg _) (by norm_num)

/-- A sum of bounded terms, as many as a list has entries. -/
theorem abs_sum_map_le {α : Type} (cs : List α) (f : α → Int) {bound : Int} (h : ∀ c, |f c| ≤ bound) :
    |(cs.map f).sum| ≤ cs.length * bound := by
  induction cs with
  | nil => simp
  | cons c rest ih =>
    rw [List.map_cons, List.sum_cons, List.length_cons, Nat.cast_succ, add_one_mul]
    linarith [abs_add_le (f c) (rest.map f).sum, h c]

/-- The same for at most 99 * 99 entries, the most cells a kernel has (42_convolution.md R202). -/
theorem abs_sum_map_le_of_length {α : Type} {cs : List α} (hlength : cs.length ≤ 99 * 99) (f : α → Int) {bound : Int}
    (hbound : 0 ≤ bound) (h : ∀ c, |f c| ≤ bound) : |(cs.map f).sum| ≤ 99 ^ 2 * bound :=
  (abs_sum_map_le cs f h).trans (mul_le_mul_of_nonneg_right (by omega) hbound)

theorem normalise_abs_le (sum dv : Int) : |normalise sum dv| ≤ |sum| := by
  unfold normalise
  split
  case isTrue => exact le_rfl
  case isFalse =>
    rw [Int.abs_eq_natAbs, Int.abs_eq_natAbs, Int.natAbs_tdiv]
    exact Int.ofNat_le.2 (Nat.div_le_self _ _)

/-- The running totals over at most 99 * 99 cells with 32-bit weights (42_convolution.md R205). -/
theorem windowTotals_abs_le {k : Kernel} (hweight : ∀ i j, |k.weight i j| ≤ 2 ^ 31) (b : Buffer) (m : Memory)
    (x y l : Nat) {cells : List (Nat × Nat)} (hlength : cells.length ≤ 99 * 99) :
    |(windowTotals b k m x y l cells).sum| ≤ 99 ^ 2 * 2 ^ 31 * 65535 ∧
      |(windowTotals b k m x y l cells).wsum| ≤ 99 ^ 2 * 2 ^ 31 := by
  have hproduct (c : Nat × Nat) : |cellProduct b m k.size k.weight x y l c| ≤ 2 ^ 31 * 65535 := by
    unfold cellProduct
    split
    case isTrue => exact abs_mul_laneRead_le (hweight _ _) _ _ _ _ _
    case isFalse => norm_num
  have hcell (c : Nat × Nat) : |cellWeight b k.size k.weight x y c| ≤ 2 ^ 31 := by
    unfold cellWeight
    split
    case isTrue => exact hweight _ _
    case isFalse => norm_num
  rw [windowTotals_eq, mul_assoc]
  exact ⟨abs_sum_map_le_of_length hlength _ (by norm_num) hproduct, abs_sum_map_le_of_length hlength _ (by norm_num) hcell⟩

/-- Settles O23: at most 99 * 99 products of a 32-bit weight and a 16-bit lane; the division and the threshold add little. -/
theorem convolutionFitsAccumulator : Obligations.ConvolutionFitsAccumulator := by
  intro b l k dynDiv procAlpha divAuto m x y lane hk kern
  have hweight (i j : Nat) : |kern.weight i j| ≤ 2 ^ 31 := abs_kernelWeight_le _ _ _ _ _
  have hthreshold : |kern.threshold| ≤ 2 ^ 31 := abs_toInt_le _
  have hall : (kernelCells k).length ≤ 99 * 99 := by
    rw [length_kernelCells]
    exact Nat.mul_le_mul hk hk
  refine ⟨fun i j x' y' => (abs_mul_laneRead_le (hweight i j) _ _ _ _ _).trans_lt (by norm_num), fun n => ?_, by norm_num,
    ?_, ?_⟩
  · intro cells t
    have hlength : cells.length ≤ 99 * 99 := (List.length_take_le' n (kernelCells k)).trans hall
    obtain ⟨hsum, hwsum⟩ := windowTotals_abs_le hweight b m x y lane hlength
    have hweights := abs_sum_map_le_of_length hlength (fun c => kern.weight c.1 c.2) (by norm_num) fun c => hweight c.1 c.2
    exact ⟨hsum, hsum.trans_lt (by norm_num), hwsum.trans_lt (by norm_num), hweights.trans_lt (by norm_num)⟩
  · rw [weightTotal_eq_sum]
    exact (abs_sum_map_le_of_length hall _ (by norm_num) fun c => hweight c.1 c.2).trans_lt (by norm_num)
  · intro t
    obtain ⟨hsum, hwsum⟩ := windowTotals_abs_le hweight b m x y lane hall
    have hquotient := (normalise_abs_le t.sum (windowDivisor kern t)).trans hsum
    have hadd {v : Int} (hv : |v| ≤ 99 ^ 2 * 2 ^ 31 * 65535) : |v + kern.threshold| < 2 ^ 63 :=
      (abs_add_le v kern.threshold).trans_lt (by linarith)
    exact ⟨hsum, hsum.trans_lt (by norm_num), hwsum.trans_lt (by norm_num), hadd hsum, hadd hquotient⟩

end Sys2Proof.Machine
end

section
/-! CONVOLVE where its checks pass and no access is refused (42_convolution.md R200 to R204). -/

namespace Sys2Proof.Machine

/-! ### The stores of a convolution -/

section
variable {s d : Buffer} (k : Memory → Kernel) (h : s.sameShape d = true)
include h

/-- Every pixel byte of the destination is stored once (42_convolution.md R203). -/
theorem convolvePlan_writes : (convolvePlan s d k).writes = d.allPixelBytes := by
  obtain ⟨hwidth, hheight, hfmt⟩ := Buffer.sameShape_iff.1 h
  have hpixels : s.pixels = d.pixels := by rw [Buffer.pixels, Buffer.pixels, hwidth, hheight]
  simp only [convolvePlan, Plan.writes, hpixels, hfmt]
  rw [List.map_flatMap]
  exact List.flatMap_congr fun p _ => d.addrs_writeLanes p.1 p.2 fun l m => convolveLane s (k m) m p.1 p.2 l

/-- Every lane of the destination reads back as the convolution computed it (42_convolution.md R203). -/
theorem convolvePlan_laneRead {desc : Descriptor} (hdst : desc.names d) {m : Memory} (hwf : m.wf = true) {x y l : Nat}
    (hx : x < d.width) (hy : y < d.height) (hl : l < d.fmt.nlanes) :
    d.laneRead (m.writeAll ((convolvePlan s d k).cells m)) x y l = convolveLane s (k m) m x y l := by
  have hnodup : (convolvePlan s d k).writes.Nodup := by
    rw [convolvePlan_writes k h]
    exact hdst.allPixelBytes_nodup
  obtain ⟨hwidth, hheight, hfmt⟩ := Buffer.sameShape_iff.1 h
  refine Plan.laneRead_stored _ (v := fun m => convolveLane s (k m) m x y l) hwf hnodup (fun c hc => ?_) ?_
  · refine List.mem_flatMap.2 ⟨(x, y), (s.mem_pixels _).2 ⟨hwidth ▸ hx, hheight ▸ hy⟩, ?_⟩
    exact List.mem_flatMap.2 ⟨l, List.mem_range.2 (hfmt ▸ hl), hc⟩
  · exact hfmt ▸ convolveLane_le s (k m) m x y l

end

/-! ### The plan of CONVOLVE -/

/-- The kernel's checks pass on an odd side length from 3 to 99, a kernel in data memory, and no explicit zero divisor
(42_convolution.md R202). -/
theorem checkKernel_of_bounds {l : Operands} {k : Nat} {divAuto : Bool} (hodd : k % 2 = 1) (hmin : 3 ≤ k) (hmax : k ≤ 99)
    (hextent : l.kernelBase.toNat + 4 * k * k ≤ 2 ^ 32) (hdivisor : divAuto = false → l.divisor ≠ 0) :
    checkKernel l k divAuto = .ok () := by
  have hside : (decide (k % 2 = 0) || decide (k < 3) || decide (99 < k)) = false := by
    simp only [Bool.or_eq_false_iff, decide_eq_false_iff_not]
    omega
  simp only [checkKernel, except_bind_eq_ok, raiseIf_eq_ok]
  exact ⟨(), hside, (), decide_eq_false (not_lt.2 hextent), by simpa using hdivisor⟩

/-- The plan of CONVOLVE between named buffers (42_convolution.md R203). -/
def convolveStores (l : Operands) (k : Nat) (dynDiv procAlpha divAuto : Bool) (s d : Buffer) : Plan :=
  { convolvePlan s d (memoryKernel l k dynDiv procAlpha divAuto) with
    kernelReads := kernelBytes l k
    overlaps := !(s.overlap d).isEmpty || kernelOverlaps l k d }

theorem convPlan_of_names {l : Operands} {k : Nat} {dynDiv procAlpha divAuto : Bool} {s d : Buffer}
    (hkernel : checkKernel l k divAuto = .ok ()) (hsrc : l.src.names s) (hdst : l.dst.names d)
    (hshape : s.sameShape d = true) :
    convPlan l k dynDiv procAlpha divAuto = .ok (convolveStores l k dynDiv procAlpha divAuto s d) := by
  simp only [convPlan, except_bind_eq_ok, raiseIf_eq_ok]
  exact ⟨(s, d), checkBoth_between_of_names hsrc hdst hkernel, (), by simp [hshape], rfl⟩

/-- Nothing overlaps a destination that lies apart from the source and from the kernel (20_memory.md R78). -/
theorem convolveStores_overlaps {l : Operands} {k : Nat} {s d : Buffer} (hapart : s.apart d)
    (hkernel : l.kernelBase.toNat + 4 * k * k ≤ d.base ∨ d.limit ≤ l.kernelBase.toNat) (dynDiv procAlpha divAuto : Bool) :
    (convolveStores l k dynDiv procAlpha divAuto s d).overlaps = false := by
  have hdisjoint : kernelOverlaps l k d = false := by
    rw [kernelOverlaps, ← Nat.mul_assoc]
    exact decide_eq_false (by omega)
  simp [convolveStores, Buffer.overlap_eq_nil s d hapart, hdisjoint]

/-- A CONVOLVE whose accesses are all admitted ends with its stores in memory (20_memory.md R79). -/
theorem exec_convolve_ended {s : State} {a b : Buffer} {k : Nat} {dynDiv procAlpha divAuto : Bool}
    (hplan : commandPlan (.convolve k dynDiv procAlpha divAuto) s.latched =
      .ok (convolveStores s.latched k dynDiv procAlpha divAuto a b))
    (hb : s.breach = Breach.none) (hsrc : s.latched.src.names a) (hshape : a.sameShape b = true)
    (hoverlaps : (convolveStores s.latched k dynDiv procAlpha divAuto a b).overlaps = false)
    (hkernel : ∀ n, n < 4 * k * k → memOK s.platform .read (s.latched.kernelBase.toNat + n) = true)
    (hreads : s.admitsPixels .read a) (hwrites : s.admitsPixels .write b) :
    exec (.convolve k dynDiv procAlpha divAuto) s =
      .next (s.ended (s.mem.writeAll
        ((convolvePlan a b (memoryKernel s.latched k dynDiv procAlpha divAuto)).cells s.mem))) := by
  rw [exec_eq_runCommand, hplan, State.runCommand_ok, s.runPlan_clean _ (fun n hn => ?_)
    (hreads.reads hplan rfl (by simp) hsrc) (fun n hn => ?_) hoverlaps hb]
  · rfl
  · obtain ⟨hlow, hhigh⟩ := (mem_kernelBytes s.latched k n).1 hn
    obtain ⟨j, rfl⟩ := Nat.exists_eq_add_of_le hlow
    exact hkernel j (by omega)
  · obtain ⟨y, hy, x, hx, i, hi, rfl⟩ := (mem_writes_convolvePlan _ hshape n).1 hn
    exact hwrites y hy x hx i hi

/-- Settles O22: every lane of the destination is stored once, with the value of `convolveLane`, which is R203's. -/
theorem convolveFiltersLanes : Obligations.ConvolveFiltersLanes := by
  intro s a b k dynDiv procAlpha divAuto hwf hb hsrc hdst hwidth hheight hfmt hapart hodd hmin hmax hextent hdivisor
    hkernelApart hkernel hreads hwrites wt cdiv
  have hshape : a.sameShape b = true := Buffer.sameShape_iff.2 ⟨hwidth, hheight, hfmt⟩
  have hplan := convPlan_of_names (dynDiv := dynDiv) (procAlpha := procAlpha)
    (checkKernel_of_bounds hodd hmin hmax hextent hdivisor) hsrc hdst hshape
  have hoverlaps := convolveStores_overlaps hapart hkernelApart dynDiv procAlpha divAuto
  refine ⟨_, exec_convolve_ended hplan hb hsrc hshape hoverlaps hkernel hreads hwrites, fun y hy x hx l hl => ?_,
    fun n hn => ?_⟩
  · have hcdiv : (memoryKernel s.latched k dynDiv procAlpha divAuto s.mem).divisor = cdiv := configuredDivisor_eq _ _ _ _
    rw [convolvePlan_laneRead _ hshape hdst hwf hx hy hl, convolveLane_eq_ite, hcdiv, hfmt]
    rfl
  · exact Plan.read_other _ _ _ hwf (by rwa [mem_writes_convolvePlan _ hshape])

end Sys2Proof.Machine
end

section
/-! The Laplacian of DETECT_BLUR and the greatest of its colour values (43_edge_detect.md R230 to R233). -/

namespace Sys2Proof.Machine

/-! ### The weights -/

/-- The weights by their positions: the centre, its four neighbours, the corners (43_edge_detect.md R230). -/
theorem laplacianWeight_eq_ite (i j : Nat) :
    laplacianWeight i j =
      if i = 1 ∧ j = 1 then -4
      else if (i = 1 ∧ (j = 0 ∨ j = 2)) ∨ (j = 1 ∧ (i = 0 ∨ i = 2)) then 1 else 0 := by
  unfold laplacianWeight
  split
  case h_6 => rw [if_neg (by grind), if_neg (by grind)]
  all_goals rfl

/-- Only the centre's weight is negative. -/
theorem laplacianWeight_nonneg {i j : Nat} (h : ¬ (i = 1 ∧ j = 1)) : 0 ≤ laplacianWeight i j := by
  rw [laplacianWeight_eq_ite, if_neg h]
  split <;> decide

/-- The weights add up to 0, and clipping leaves out none that is negative: the centre of a window lies in the image. -/
theorem cellWeights_laplacian_nonpos {b : Buffer} {x y : Nat} (hx : x < b.width) (hy : y < b.height) :
    cellWeights b 3 laplacianWeight x y ≤ 0 := by
  have hcell (i j : Nat) :
      (if inImage b (3 / 2) x y i j then laplacianWeight i j else 0) ≤ laplacianWeight i j := by
    split
    case isTrue => exact le_rfl
    case isFalse hout => exact laplacianWeight_nonneg fun hcentre => hout (by omega)
  calc cellWeights b 3 laplacianWeight x y
      ≤ ∑ i ∈ Finset.range 3, ∑ j ∈ Finset.range 3, laplacianWeight i j :=
        Finset.sum_le_sum fun i _ => Finset.sum_le_sum fun j _ => hcell i j
    _ = 0 := by decide

/-! ### The value of a lane -/

/-- What DETECT_BLUR writes to a lane: alpha is copied, a colour lane is filtered (43_edge_detect.md R231). -/
theorem convolveLane_laplacian (b : Buffer) (m : Memory) (x y l : Nat) :
    (convolveLane b laplacian m x y l : Int) =
      if b.fmt.isAlpha l = true then (b.laneRead m x y l : Int)
      else filteredLane b m 3 laplacianWeight 1 0 false x y l := by
  rw [convolveLane_eq_ite]
  exact if_congr (and_iff_left rfl) rfl rfl

/-- The value of a colour lane is the clamped sum itself (43_edge_detect.md R231). -/
theorem filteredLane_laplacian (b : Buffer) (m : Memory) (x y l : Nat) :
    filteredLane b m 3 laplacianWeight 1 0 false x y l =
      max 0 (min (cellSum b m 3 laplacianWeight x y l) b.fmt.lanemax) := by
  simp [filteredLane_eq, normalise]

/-- A colour lane that is uniform has zero gradient: a clipped window's sum is negative or 0, and clamps to 0
(43_edge_detect.md R233). -/
theorem convolveLane_laplacian_of_uniform {b : Buffer} {m : Memory} {l v x y : Nat}
    (huniform : ∀ x, x < b.width → ∀ y, y < b.height → b.laneRead m x y l = v) (hcolour : b.fmt.isAlpha l = false)
    (hx : x < b.width) (hy : y < b.height) : convolveLane b laplacian m x y l = 0 := by
  have hsum : cellSum b m 3 laplacianWeight x y l ≤ 0 := by
    rw [cellSum_of_uniform huniform]
    exact mul_nonpos_of_nonpos_of_nonneg (cellWeights_laplacian_nonpos hx hy) (Int.natCast_nonneg v)
  have hvalue := convolveLane_laplacian b m x y l
  rw [if_neg (by simp [hcolour]), filteredLane_laplacian] at hvalue
  omega

/-! ### The greatest gradient -/

/-- The values `maxG` ranges over (43_edge_detect.md R231, R232). -/
def colourGradients (b : Buffer) (m : Memory) : List Nat :=
  b.pixels.flatMap fun p => b.fmt.colourLanes.map fun l => convolveLane b laplacian m p.1 p.2 l

theorem maxGradientOf_eq (b : Buffer) (m : Memory) : maxGradientOf b m = (colourGradients b m).max?.getD 0 :=
  List.foldl_max.trans (Nat.zero_max _)

theorem Format.mem_colourLanes (f : Format) (l : Nat) : l ∈ f.colourLanes ↔ l < f.nlanes ∧ f.isAlpha l = false := by
  simp [Format.colourLanes]

theorem mem_colourGradients (b : Buffer) (m : Memory) (v : Nat) :
    v ∈ colourGradients b m ↔
      ∃ y, y < b.height ∧ ∃ x, x < b.width ∧ ∃ l, l < b.fmt.nlanes ∧ b.fmt.isAlpha l = false ∧
        convolveLane b laplacian m x y l = v := by
  simp only [colourGradients, List.mem_flatMap, List.mem_map, Buffer.mem_pixels, Format.mem_colourLanes, Prod.exists]
  grind

/-- The first lane of every format is a colour lane (20_memory.md R65). -/
theorem Format.colourLane_zero (f : Format) : 0 < f.nlanes ∧ f.isAlpha 0 = false := by cases f <;> decide

/-- An image with a pixel has a gradient. -/
theorem colourGradients_ne_nil {b : Buffer} (hw : 0 < b.width) (hh : 0 < b.height) (m : Memory) :
    colourGradients b m ≠ [] := by
  obtain ⟨hlane, hcolour⟩ := b.fmt.colourLane_zero
  exact List.ne_nil_of_mem ((mem_colourGradients b m _).2 ⟨0, hh, 0, hw, 0, hlane, hcolour, rfl⟩)

/-- `maxG` is one of the gradients, and none is greater (43_edge_detect.md R231). -/
theorem maxGradientOf_isGreatest {b : Buffer} {m : Memory} (h : colourGradients b m ≠ []) :
    maxGradientOf b m ∈ colourGradients b m ∧ ∀ v ∈ colourGradients b m, v ≤ maxGradientOf b m := by
  obtain ⟨g, hg⟩ := Option.isSome_iff_exists.1 (List.isSome_max?_of_ne_nil h)
  rw [maxGradientOf_eq, hg, Option.getD_some]
  exact List.max?_eq_some_iff.1 hg

/-- A buffer's greatest gradient is a lane value (43_edge_detect.md R232). -/
theorem maxGradientOf_le_lanemax (b : Buffer) (m : Memory) : maxGradientOf b m ≤ b.fmt.lanemax := by
  by_cases hempty : colourGradients b m = []
  · simp [maxGradientOf_eq, hempty]
  · obtain ⟨hmem, -⟩ := maxGradientOf_isGreatest hempty
    obtain ⟨y, -, x, -, l, -, -, hvalue⟩ := (mem_colourGradients b m _).1 hmem
    exact hvalue ▸ convolveLane_le b laplacian m x y l

/-- Settles O27: every gradient is 0, and an image without pixels has no gradient. -/
theorem uniformImageHasZeroGradient : Obligations.UniformImageHasZeroGradient := by
  intro b m huniform
  have hzero (x : Nat) (hx : x < b.width) (y : Nat) (hy : y < b.height) (l : Nat) (hl : l < b.fmt.nlanes)
      (hcolour : b.fmt.isAlpha l = false) : convolveLane b laplacian m x y l = 0 := by
    obtain ⟨v, hv⟩ := huniform l hl hcolour
    exact convolveLane_laplacian_of_uniform hv hcolour hx hy
  refine ⟨hzero, ?_⟩
  by_cases hempty : colourGradients b m = []
  · simp [maxGradientOf_eq, hempty]
  · obtain ⟨hmem, -⟩ := maxGradientOf_isGreatest hempty
    obtain ⟨y, hy, x, hx, l, hl, hcolour, hvalue⟩ := (mem_colourGradients b m _).1 hmem
    rw [← hvalue, hzero x hx y hy l hl hcolour]

end Sys2Proof.Machine
end

section
/-! DETECT_BLUR where its checks pass and no access is refused (43_edge_detect.md R231, R232). -/

namespace Sys2Proof.Machine

/-- The plan of DETECT_BLUR between named buffers (43_edge_detect.md R231). -/
def blurStores (l : Operands) (s d : Buffer) : Plan :=
  { convolvePlan s d (fun _ => laplacian) with result := .blur l.edgeThreshold s.fmt.lanemax (maxGradientOf s) }

theorem blurPlan_of_names {l : Operands} {s d : Buffer} (hsrc : l.src.names s) (hdst : l.dst.names d)
    (hshape : s.sameShape d = true) : blurPlan l = .ok (blurStores l s d) := by
  simp only [blurPlan, except_bind_eq_ok, raiseIf_eq_ok]
  exact ⟨(s, d), checkBoth_of_names hsrc hdst, (), by simp [hshape], rfl⟩

/-- The image is blurred where the greatest gradient is below the threshold (43_edge_detect.md R231). -/
theorem isBlurredFlag_eq (g : Nat) (t : Word) : isBlurredFlag g t = decide (g < t.toNat) := by
  simp [isBlurredFlag, ← decide_not]

/-- A lane value fits MAX_GRADIENT. -/
theorem Format.lanemax_lt (f : Format) : f.lanemax < 2 ^ 32 := by cases f <;> decide

/-- The report of a gradient that fits MAX_GRADIENT (10_state.md R48, 43_edge_detect.md R231). -/
theorem State.writeBlur_ofNat (s : State) {g : Nat} (hg : g < 2 ^ 32) (t : Word) :
    s.writeBlur (BitVec.ofNat 32 g) t =
      { s with maxGradient := BitVec.ofNat 32 g, blurValid := true, isBlurred := decide (g < t.toNat) } := by
  rw [State.writeBlur, isBlurredFlag_eq, BitVec.toNat_ofNat, Nat.mod_eq_of_lt hg]

/-- A DETECT_BLUR whose accesses are all admitted ends with its stores in memory and its report (20_memory.md R79,
43_edge_detect.md R231). -/
theorem exec_detectBlur_reported {s : State} {a b : Buffer} (hb : s.breach = Breach.none) (hsrc : s.latched.src.names a)
    (hdst : s.latched.dst.names b) (hshape : a.sameShape b = true) (hapart : a.apart b)
    (hreads : s.admitsPixels .read a) (hwrites : s.admitsPixels .write b) :
    exec .detectBlur s =
      .next { s with
        mem := s.mem.writeAll ((convolvePlan a b fun _ => laplacian).cells s.mem)
        maxGradient := BitVec.ofNat 32 (maxGradientOf a s.mem)
        blurValid := true
        isBlurred := decide (maxGradientOf a s.mem < s.latched.edgeThreshold.toNat)
        engine := .idle
        done := true } := by
  have hplan : commandPlan .detectBlur s.latched = .ok (blurStores s.latched a b) := blurPlan_of_names hsrc hdst hshape
  have hoverlaps : (blurStores s.latched a b).overlaps = false := by
    simp [blurStores, convolvePlan, Buffer.overlap_eq_nil a b hapart]
  have hfits := (maxGradientOf_le_lanemax a s.mem).trans_lt a.fmt.lanemax_lt
  rw [exec_clean hplan rfl (hreads.reads hplan rfl (by simp) hsrc) (fun n hn => ?_) hoverlaps hb]
  · simp only [blurStores, State.writeResult, State.writeBlur_ofNat _ hfits]
    rfl
  · obtain ⟨y, hy, x, hx, i, hi, rfl⟩ := (mem_writes_convolvePlan _ hshape n).1 hn
    exact hwrites y hy x hx i hi

/-- Settles O26: DETECT_BLUR is the convolution by the weights of R230, and reports the greatest of its colour values. -/
theorem detectBlurMeasuresGradient : Obligations.DetectBlurMeasuresGradient := by
  intro s a b hwf hb hsrc hdst hwidth hheight hfmt hapart hreads hwrites wt out
  have hshape : a.sameShape b = true := Buffer.sameShape_iff.2 ⟨hwidth, hheight, hfmt⟩
  have hweights : wt = laplacianWeight := funext fun i => funext fun j => (laplacianWeight_eq_ite i j).symm
  have hlane (x y l : Nat) : (convolveLane a laplacian s.mem x y l : Int) =
      if a.fmt.isAlpha l = true then (a.laneRead s.mem x y l : Int) else out x y l := by
    rw [convolveLane_laplacian, ← hweights]
  have hcolourLane {x y l : Nat} (hcolour : a.fmt.isAlpha l = false) :
      out x y l = (convolveLane a laplacian s.mem x y l : Int) := by
    rw [hlane, if_neg (by simp [hcolour])]
  obtain ⟨⟨hw, -⟩, hh, -⟩ := hsrc.dimensions
  obtain ⟨hmem, hgreatest⟩ := maxGradientOf_isGreatest (colourGradients_ne_nil hw hh s.mem)
  refine ⟨_, _, exec_detectBlur_reported hb hsrc hdst hshape hapart hreads hwrites, fun y hy x hx l hl => ?_,
    hfmt ▸ maxGradientOf_le_lanemax a s.mem, fun y hy x hx l hl hcolour => ?_, ?_, fun n hn => ?_⟩
  · rw [convolvePlan_laneRead _ hshape hdst hwf hx hy hl, hlane, hfmt]
  · rw [hcolourLane hcolour, Int.ofNat_le]
    exact hgreatest _ ((mem_colourGradients a s.mem _).2 ⟨y, hy, x, hx, l, hl, hcolour, rfl⟩)
  · obtain ⟨y, hy, x, hx, l, hl, hcolour, hvalue⟩ := (mem_colourGradients a s.mem _).1 hmem
    exact ⟨y, hy, x, hx, l, hl, hcolour, by rw [hcolourLane hcolour, hvalue]⟩
  · exact Plan.read_other _ _ _ hwf (by rwa [mem_writes_convolvePlan _ hshape])

end Sys2Proof.Machine
end

section
/-! How a command ends where an access is refused (60_exceptions.md R254, R255, R257), and which errors a command can raise
once it is decoded (R261). -/

namespace Sys2Proof.Machine

/-! ### A refused access -/

/-- The platform refuses an access of the command (20_memory.md R61). -/
def State.refusesAccess (s : State) (p : Plan) : Prop := ∃ a, a ∈ s.refusedKernel p ∨ a ∈ s.refusedPixels p

/-- A command with a refused access reports a refused kernel byte and leaves memory whole, or reports another refused byte
(60_exceptions.md R255, R257). -/
theorem State.runPlan_of_refused {s : State} {p : Plan} (h : s.refusesAccess p) :
    (∃ a ∈ s.refusedKernel p, s.runPlan p = s.busError a) ∨
    (∃ a ∈ s.refusedPixels p, s.runPlan p = (s.unspecify p.mayChange).busError a) := by
  obtain hkernel | hpixels | ⟨hkernel, hpixels, -⟩ := s.runPlan_cases p
  · exact .inl hkernel
  · exact .inr hpixels
  · simp [State.refusesAccess, hkernel, hpixels] at h

theorem State.refusesAccess_of_memOK {s : State} {p : Plan}
    (h : (∃ a ∈ p.kernelReads ++ p.reads, memOK s.platform .read a = false) ∨
      ∃ a ∈ p.writes, memOK s.platform .write a = false) : s.refusesAccess p := by
  simp only [State.refusesAccess, State.mem_refusedKernel, State.mem_refusedPixels]
  obtain ⟨a, ha, hrefused⟩ | ⟨a, ha, hrefused⟩ := h
  · obtain hkernel | hread := List.mem_append.1 ha
    · exact ⟨a, .inl ⟨hkernel, hrefused⟩⟩
    · exact ⟨a, .inr (.inl ⟨hread, hrefused⟩)⟩
  · exact ⟨a, .inr (.inr ⟨ha, hrefused⟩)⟩

/-- Settles O34: both reports end in `State.busError`, from the state as it was where the byte is a kernel byte, and
otherwise from the state with the bytes the command may change unspecified. -/
theorem refusedAccessIsBusError : Obligations.RefusedAccessIsBusError := by
  intro i s p hwf hplan hrefused
  have hexec : exec i s = .next (s.runPlan p) := by rw [exec_eq_runCommand, hplan, State.runCommand_ok]
  have hrefuses : s.refusesAccess p := State.refusesAccess_of_memOK hrefused
  obtain ⟨a, ha, hrun⟩ | ⟨a, ha, hrun⟩ := State.runPlan_of_refused hrefuses <;> rw [hrun] at hexec
  · obtain ⟨hkernel, hread⟩ := (s.mem_refusedKernel p a).1 ha
    exact ⟨_, a, hexec, rfl, rfl, .inl ⟨hkernel, hread, rfl⟩, rfl, rfl, rfl, rfl, rfl, rfl, rfl, rfl, rfl, fun _ _ => rfl⟩
  · exact ⟨_, a, hexec, rfl, rfl, .inr ((s.mem_refusedPixels p a).1 ha), rfl, rfl, rfl, rfl, rfl, rfl, rfl, rfl, rfl,
      fun b hb => Memory.read_scramble_of_not_mem _ _ _ _ hwf hb⟩

/-- The kernel bytes of a CONVOLVE lie at the offsets from KERNEL_BASE below the kernel's extent (42_convolution.md R200). -/
theorem mem_convolve_kernelReads {l : Operands} {k : Nat} {dynDiv procAlpha divAuto : Bool} {p : Plan}
    (h : commandPlan (.convolve k dynDiv procAlpha divAuto) l = .ok p) {a : Nat} :
    a ∈ p.kernelReads ↔ ∃ j, j < 4 * k * k ∧ a = l.kernelBase.toNat + j := by
  have hkernel : p.kernelReads = List.range' l.kernelBase.toNat (4 * (k * k)) := commandPlan_kernelReads h
  rw [hkernel, Nat.mul_assoc]
  simp [List.mem_range']

/-- Settles O35: with no other byte refused the report is of a kernel byte, and that end leaves memory whole. -/
theorem refusedKernelWordLeavesMemory : Obligations.RefusedKernelWordLeavesMemory := by
  intro s k dynDiv procAlpha divAuto p n hplan hn hrefused hreads hwrites
  have hmem : s.latched.kernelBase.toNat + n ∈ p.kernelReads := (mem_convolve_kernelReads hplan).2 ⟨n, hn, rfl⟩
  obtain ⟨a, ha, hrun⟩ | ⟨a, ha, -⟩ :=
    State.runPlan_of_refused (State.refusesAccess_of_memOK (.inl ⟨_, List.mem_append_left _ hmem, hrefused⟩))
  · obtain ⟨hkernel, hread⟩ := (s.mem_refusedKernel p a).1 ha
    obtain ⟨j, hj, rfl⟩ := (mem_convolve_kernelReads hplan).1 hkernel
    refine ⟨j, hj, hread, ?_⟩
    rw [exec_eq_runCommand, hplan, State.runCommand_ok, hrun]
    rfl
  · obtain ⟨hread, hbad⟩ | ⟨hwrite, hbad⟩ := (s.mem_refusedPixels p a).1 ha
    · simp [hreads a hread] at hbad
    · simp [hwrites a hwrite] at hbad

/-! ### The errors of a command -/

/-- The first error is the error of one of the checks. -/
theorem firstError_mem {cs : List (Bool × CmdError)} {e : CmdError} (h : firstError cs = some e) :
    e ∈ cs.map Prod.snd := by
  induction cs with
  | nil => cases h
  | cons c rest ih =>
    obtain ⟨c, e'⟩ := c
    cases c with
    | false => exact List.mem_cons_of_mem _ (ih h)
    | true =>
      cases h
      exact List.mem_cons_self

/-- Checks raise no error but their own. -/
theorem ChecksInOrder.error_mem {α : Type} {cs : List (Bool × CmdError)} {e : CmdError}
    (h : ChecksInOrder (.error e : Except CmdError α) cs) : e ∈ cs.map Prod.snd := by
  unfold ChecksInOrder at h
  split at h
  next e' hfirst =>
    cases h
    exact firstError_mem hfirst
  next =>
    obtain ⟨_, hok⟩ := h
    cases hok

/-- Every command makes its checks in some order, each for an error that R261 marks for it. -/
theorem commandPlan_checks (i : Instr) (l : Operands) :
    ∃ cs, ChecksInOrder (commandPlan i l) cs ∧ cs.map Prod.snd ⊆ allowedErrors i := by
  cases i with
  | nop => exact ⟨_, .ok Plan.empty, by simp⟩
  | clear => exact ⟨_, clearPlan_checks l, by simp [allowedErrors]⟩
  | getPixel => exact ⟨_, (checkPixel_checks l l.src).bind_ok fun _ => rfl, by simp [allowedErrors]⟩
  | setPixel => exact ⟨_, (checkPixel_checks l l.dst).bind_ok fun _ => rfl, by simp [allowedErrors]⟩
  | copy => exact ⟨_, sameShape_checks l fun _ => rfl, by simp [allowedErrors]⟩
  | resampleNearest => exact ⟨_, (resampleSetup_checks l false).bind_ok fun _ => rfl, by simp [allowedErrors]⟩
  | resampleBilinear => exact ⟨_, (resampleSetup_checks l false).bind_ok fun _ => rfl, by simp [allowedErrors]⟩
  | resampleBicubic => exact ⟨_, (resampleSetup_checks l true).bind_ok fun _ => rfl, by simp [allowedErrors]⟩
  | convolve k dynDiv procAlpha divAuto =>
    exact ⟨_, convPlan_checks l k dynDiv procAlpha divAuto, by simp [allowedErrors]⟩
  | detectBlur => exact ⟨_, sameShape_checks l fun _ => rfl, by simp [allowedErrors]⟩

/-- Every command but NOP can raise BUS_ERROR (60_exceptions.md R261). -/
theorem busError_mem_allowedErrors {i : Instr} (h : i ≠ .nop) : .busError ∈ allowedErrors i := by
  cases i with
  | nop => exact absurd rfl h
  | _ => simp [allowedErrors]

/-- A command that has passed its checks raises BUS_ERROR, and that only where an access is refused. -/
theorem State.runPlan_errCode (s : State) (p : Plan) :
    ((s.runPlan p).errCode = some .busError ∧ s.refusesAccess p) ∨
    (s.runPlan p).errCode = s.errCode := by
  obtain ⟨a, ha, hrun⟩ | ⟨a, ha, hrun⟩ | ⟨-, -, hrun⟩ := s.runPlan_cases p <;> rw [hrun]
  · exact .inl ⟨rfl, a, .inl ha⟩
  · exact .inl ⟨rfl, a, .inr ha⟩
  · exact .inr (s.applyPlan_writes p).2

/-- NOP accesses nothing, so no access of it is refused (40_pixel_lanes.md R121). -/
theorem commandPlan_ne_nop_of_refusesAccess {i : Instr} {l : Operands} {s : State} {p : Plan}
    (hplan : commandPlan i l = .ok p) (h : s.refusesAccess p) : i ≠ .nop := by
  rintro rfl
  cases hplan
  simp [State.refusesAccess, State.mem_refusedKernel, State.mem_refusedPixels, Plan.empty, Plan.writes] at h

/-- Settles O33: an error is that of an operand check, or BUS_ERROR of a command that accesses memory. -/
theorem commandsRaiseOnlyTheirErrors : Obligations.CommandsRaiseOnlyTheirErrors := by
  intro i s t e hnone h he
  rw [exec_eq_runCommand] at h
  cases h
  cases hplan : commandPlan i s.latched with
  | error e' =>
    rw [hplan, State.runCommand_error, State.raise_errCode] at he
    cases he
    obtain ⟨cs, hchecks, hallowed⟩ := commandPlan_checks i s.latched
    rw [hplan] at hchecks
    exact hallowed hchecks.error_mem
  | ok p =>
    rw [hplan, State.runCommand_ok] at he
    obtain ⟨hbus, hrefused⟩ | hkept := s.runPlan_errCode p
    · cases he.symm.trans hbus
      exact busError_mem_allowedErrors (commandPlan_ne_nop_of_refusesAccess hplan hrefused)
    · cases (he.symm.trans hkept).trans hnone

end Sys2Proof.Machine
end

section
/-! Reset (70_reset_and_hazards.md R290, R291, R293): what an abort and both resets keep, the step at each reset and at the
release of the reset input, and the obligations on reset. -/

namespace Sys2Proof.Machine

/-! ### What a reset shows and keeps -/

/-- What the registers read is a function of the registers alone. -/
theorem State.readReg_of_registers {s t : State} (h : s.registers = t.registers) (r : Reg) : s.readReg r = t.readReg r := by
  simp only [State.registers, Prod.mk.injEq] at h
  obtain ⟨hoperands, hirqEn, hdone, herr, hovr, herrCode, herrInfo, hvalid, hblurred, hgradient, hengine⟩ := h
  have hctrl : s.ctrlWord = t.ctrlWord := by simp only [State.ctrlWord, hirqEn]
  have hstatus : s.statusWord = t.statusWord := by
    simp only [State.statusWord, State.busy, hdone, herr, hovr, herrCode, hengine]
  have hblur : s.blurWord = t.blurWord := by simp only [State.blurWord, hvalid, hblurred]
  cases r <;> simp only [State.readReg, hoperands, hctrl, hstatus, herrInfo, hblur, hgradient]

@[simp] theorem State.abort_inputs (s : State) : s.abort.inputs = s.inputs := by
  unfold State.abort
  split <;> rfl

@[simp] theorem State.abort_resetAsserted (s : State) : s.abort.resetAsserted = s.resetAsserted := by
  unfold State.abort
  split <;> rfl

/-- With no command in progress there is nothing to abort (60_exceptions.md R272). -/
theorem State.abort_of_idle {s : State} (h : s.engine = .idle) : s.abort = s := by
  have hnone : s.mayChange = [] := List.eq_nil_iff_forall_not_mem.2 fun a => (State.not_mem_of_idle h a).2
  simp only [State.abort, hnone]

@[simp] theorem State.softReset_inputs (s : State) : s.softReset.inputs = s.inputs := s.abort_inputs

@[simp] theorem State.softReset_resetAsserted (s : State) : s.softReset.resetAsserted = s.resetAsserted :=
  s.abort_resetAsserted

/-- A reset leaves every byte the aborted command may not change (R291, item I7). -/
theorem State.read_softReset {s : State} (hwf : s.mem.wf = true) {a : Nat} (ha : a ∉ s.mayChange) :
    s.softReset.mem.read a = s.mem.read a := by
  rw [State.softReset, State.clearRegisters_mem, State.abort_mem, Memory.read_scramble_of_not_mem _ _ _ _ hwf ha]

theorem State.softReset_mem_of_idle {s : State} (h : s.engine = .idle) : s.softReset.mem = s.mem := by
  rw [State.softReset, State.abort_of_idle h, State.clearRegisters_mem]

/-! ### The steps of reset -/

/-- The state after a reset, the reset input then being asserted or not (R290, R293; log 16). -/
def State.resetTo (s : State) (asserted : Bool) : State := { s.softReset with resetAsserted := asserted }

/-- Every register has its reset value and the engine is IDLE (R290). -/
@[simp] theorem State.resetTo_registers (s : State) (asserted : Bool) :
    (s.resetTo asserted).registers = State.reset.registers := rfl

theorem State.softReset_eq_resetTo (s : State) : s.softReset = s.resetTo s.resetAsserted := by
  rw [← s.softReset_resetAsserted]
  rfl

/-- A CTRL write with SOFT_RESET = 1 resets and leaves the reset input (10_state.md R30). -/
theorem step_writeSoftReset {s : State} {v : Word} {rest : List Input} (hreleased : s.resetAsserted = false)
    (hv : bit v 1 = true) (h : s.inputs = .regWrite (s.platform.regBase + Reg.ctrl.offset) 4 v :: rest) :
    step s = .next ((s.withInputs rest).resetTo s.resetAsserted) := by
  rw [step_writeReg hreleased h]
  exact congrArg _ (((s.withInputs rest).writeCtrl_softReset hv).trans (s.withInputs rest).softReset_eq_resetTo)

theorem step_resetAssert {s : State} {rest : List Input} (h : s.inputs = .resetAssert :: rest) :
    step s = .next ((s.withInputs rest).resetTo true) := by
  simp only [step, State.turn, h]
  rfl

theorem step_resetRelease {s : State} {rest : List Input} (h : s.inputs = .resetRelease :: rest) :
    step s = .next { s with inputs := rest, resetAsserted := false } := by
  simp only [step, State.turn, h]
  rfl

/-- The step of either reset; only the hardware reset asserts the input. -/
theorem step_eq_resetTo {s : State} {rest : List Input}
    (h : (∃ v, s.resetAsserted = false ∧ bit v 1 = true ∧ s.inputs = .regWrite (s.platform.regBase + 0x004) 4 v :: rest) ∨
      s.inputs = .resetAssert :: rest) :
    ∃ asserted, step s = .next ((s.withInputs rest).resetTo asserted) ∧
      (asserted = true ↔ s.resetAsserted = true ∨ s.inputs = .resetAssert :: rest) := by
  obtain ⟨v, hreleased, hv, hin⟩ | hin := h
  · exact ⟨_, step_writeSoftReset hreleased hv hin, by simp [hin]⟩
  · exact ⟨_, step_resetAssert hin, by simp [hin]⟩

/-! ### The obligations -/

/-- Settles O55: both resets step to the same reset state; the release keeps the registers, which the invariant holds at their
reset values while the input is asserted. -/
theorem resetsClearRegisters : Obligations.ResetsClearRegisters := by
  intro s rest
  refine ⟨fun hwf hreset => ?_, fun hin => ⟨step_resetRelease hin, fun hinv hasserted => ?_⟩⟩
  · obtain ⟨asserted, hstep, hasserted⟩ := step_eq_resetTo hreset
    obtain ⟨hplatform, houtputs⟩ := (s.withInputs rest).softReset_platform_outputs
    exact ⟨_, hstep, State.readReg_of_registers (State.resetTo_registers _ _), rfl, rfl, rfl, hplatform,
      (s.withInputs rest).softReset_inputs, houtputs, hasserted,
      fun a ha => State.read_softReset (s := s.withInputs rest) hwf ha,
      fun hidle => State.softReset_mem_of_idle (s := s.withInputs rest) hidle⟩
  · have hregisters := State.clearRegisters_eq_self_iff.1 (hinv.heldInReset hasserted)
    refine ⟨State.readReg_of_registers hregisters, ?_⟩
    simp only [State.registers, Prod.mk.injEq] at hregisters
    obtain ⟨-, -, -, -, -, -, -, -, -, -, hidle⟩ := hregisters
    exact hidle

/-- Settles O56: memory lists no byte at reset, and the registers hold their reset values. -/
theorem resetMeetsInvariant : Obligations.ResetMeetsInvariant := .of_cleared ⟨rfl, rfl⟩ rfl

end Sys2Proof.Machine
end
